-- ==== Sys2Proof/Word.lean ====
section
/-! DEFINITION. The words and the numbered things of the KL416: bytes, host addresses, and the identifiers of
lines, rings, response rings, contexts and movers. -/

namespace Sys2Proof

/-- One byte of the store, of host memory or of a record. -/
abbrev Byte := BitVec 8

/-- A register of the window (R73). -/
abbrev Word32 := BitVec 32

/-- A host address; host addresses are 64-bit and buffers wrap modulo 2^64 (R179). -/
abbrev HostAddr := BitVec 64

/-- One of the 256 delay lines (R1). -/
abbrev LineId := Fin 256

/-- One of the 16 command rings; 0 is the control ring (R41). -/
abbrev RingId := Fin 16

/-- One of the four response rings (R140). -/
abbrev RespId := Fin 4

/-- One of the 257 operation contexts: 0 is the control context, 1 to 256 the work contexts (R53). -/
abbrev CtxId := Fin 257

/-- One of the four movers (R156). -/
abbrev MoverId := Fin 4

end Sys2Proof
end

