-- ==== Sys2Proof/Machine/Bytes.lean ====
section
/-! DEFINITION. Byte order: every multi-byte field is stored least significant byte first (00_scope.md, Byte order). -/

namespace Sys2Proof

/-- The value of a list of bytes, least significant byte first. -/
def leNat : List Byte → Nat
  | [] => 0
  | b :: bs => b.toNat + 256 * leNat bs

/-- The low `n` bytes of a value, least significant byte first. -/
def leBytes : Nat → Nat → List Byte
  | 0, _ => []
  | n + 1, v => BitVec.ofNat 8 v :: leBytes n (v / 256)

/-- The field of `size` bytes at byte offset `off` of a record. -/
def field (bs : List Byte) (off size : Nat) : Nat := leNat ((bs.drop off).take size)

/-- The samples of a run of bytes, four bytes each, signed (00_scope.md, Sample); a tail shorter than four bytes
gives none. -/
def samples : List Byte → List Int
  | b0 :: b1 :: b2 :: b3 :: rest => (BitVec.ofNat 32 (leNat [b0, b1, b2, b3])).toInt :: samples rest
  | _ => []

/-- The four bytes of a sample. -/
def sampleBytes (x : Int) : List Byte := leBytes 4 (BitVec.ofInt 32 x).toNat

end Sys2Proof
end

