-- ==== Sys2Proof/Config.lean ====
section
/-! DEFINITION. The constants of the part, each as the spec states it. The part has no free value: what the spec
leaves to each run (the order of events, the host's answers, calibration's outcome, flipped bits) is an operand of a
command or the order of the queue. -/

namespace Sys2Proof.Config

/-- The highest position, 2^48 - 1 (00_scope.md, Position; R2). -/
def maxPosition : Nat := 2 ^ 48 - 1

/-- Bytes of the line store (R20). -/
def storeBytes : Nat := 1073741824

/-- Bytes of a block of the line store (R20). -/
def blockBytes : Nat := 4096

/-- Blocks of the line store (R20). -/
def storeBlocks : Nat := 262144

/-- Bytes of a word of the line store, the unit of error correction (R20). -/
def wordBytes : Nat := 32

/-- The longest store burst in bytes, 16 words (R20, R31). -/
def burstBytes : Nat := 512

/-- The longest transfer on the host link in bytes (R159). -/
def transferBytes : Nat := 512

/-- Host reads a deposit's mover keeps outstanding at most (R156, R159). -/
def maxReads : Nat := 4

/-- Microseconds after which a host read that has not completed fails (R160). -/
def readTimeout : Nat := 50000

/-- The host write queue's places (R161). -/
def writeQueue : Nat := 64

/-- The most extents a line may hold (R27). -/
def maxExtents : Nat := 8

/-- The refresh debt at which a refresh is forced (R36, R37). -/
def maxDebt : Nat := 8

/-- The refresh interval, 7.8 microseconds, in tenths of a microsecond (R36). -/
def refreshTenths : Nat := 78

/-- The value at which the two 32-bit error and refresh counts stop (R33, R37). -/
def countMax : Nat := 4294967295

/-- Unity gain (R67, R121). -/
def unityGain : Nat := 16384

/-- IDENT: part code 0x0416 in bytes 0 and 1, revision 1 in byte 2 (R73, R163). -/
def ident : Word32 := 0x00010416#32

/-- DESIGN CHOICE (log 6): what a byte of the line store reads as that nothing has written; the spec calls the
contents after calibration undefined (R21). No read of the part delivers such a byte to the host. -/
def unwritten : Byte := 0#8

end Sys2Proof.Config
end

