-- ==== Sys2Proof/Syntax.lean ====
section
/-! DEFINITION. The syntax of the KL416: the command records a host places in its rings (R64 to R69), as they stand
once decoded, and the commands of the model, one constructor for each row of spec/opcode_table.json. -/

namespace Sys2Proof

/-- The write policy of a line (R1, R12, R14). -/
inductive Policy where
  | freeRunning
  | guarded
  deriving DecidableEq, Repr

/-- The record kinds (R64). -/
inductive Kind where
  | deposit | skip | tap | mix
  | openLine | closeLine | setLine | queryLine | queryStore
  | createRing | deleteRing | pauseRing | resumeRing
  | createResponse | deleteResponse
  deriving DecidableEq, Repr

/-- One tap entry of a MIX (R67): line, mode, signed gain in units of 1/16,384, and the delay or position. -/
structure MixTap where
  line : LineId
  absolute : Bool
  gain : BitVec 16
  field : Nat
  deriving DecidableEq, Repr

/-- The lap notice settings of a line (R18): on or off, and the target response ring. -/
structure LapSetting where
  on : Bool
  target : RespId
  deriving DecidableEq, Repr

/-- The decoded fields of a record, by kind (R66 to R69). -/
inductive Body where
  /-- Source buffer and frames M (R66). -/
  | deposit (line : LineId) (addr : HostAddr) (frames : Nat)
  /-- Frames M (R66). -/
  | skip (line : LineId) (frames : Nat)
  /-- Destination buffer, frames N, wait, whether `field` is a position, the delay or position, channel mask (R66). -/
  | tap (line : LineId) (addr : HostAddr) (frames wait : Nat) (absolute : Bool) (field : Nat) (mask : BitVec 16)
  /-- Destination line with DEST_LINE, destination buffer, frames N, wait, 1 to 8 taps (R67). -/
  | mix (dest : Option LineId) (addr : HostAddr) (frames wait : Nat) (taps : List MixTap)
  /-- Channels, policy, lap settings, capacity C (R68). -/
  | openLine (line : LineId) (channels : Nat) (policy : Policy) (lap : LapSetting) (capacity : Nat)
  | closeLine (line : LineId)
  /-- Policy and lap settings (R68). -/
  | setLine (line : LineId) (policy : Policy) (lap : LapSetting)
  /-- Report buffer (R68). -/
  | queryLine (line : LineId) (addr : HostAddr)
  /-- Report buffer (R68). -/
  | queryStore (addr : HostAddr)
  /-- Ring, log2 size, priority, window size, response ring, base (R69). -/
  | createRing (ring : RingId) (logSize priority window : Nat) (resp : RespId) (base : HostAddr)
  | deleteRing (ring : RingId)
  | pauseRing (ring : RingId)
  | resumeRing (ring : RingId)
  /-- Response ring, log2 size, moderation count, interrupt, moderation time, base (R69). -/
  | createResponse (ring : RespId) (logSize count : Nat) (interrupt : Bool) (time : Nat) (base : HostAddr)
  | deleteResponse (ring : RespId)
  deriving DecidableEq, Repr

/-- A record that passes decode: the header's flags and tag, and the fields of its kind (R64). -/
structure Record where
  fence : Bool
  noIrq : Bool
  tag : BitVec 16
  body : Body
  deriving DecidableEq, Repr

/-- The configuration registers of R165. -/
inductive ConfigReg where
  | ctrlBaseLo | ctrlBaseHi | ctrlSize | resp0BaseLo | resp0BaseHi | resp0Size | resp0Mod
  deriving DecidableEq, Repr

/-- The width of a host access to the register window (R163). -/
inductive Width where
  | byte | half | word
  deriving DecidableEq, Repr

/-- What one configuration access to the message interrupts sets (R162). -/
inductive MessageSetting where
  | address (vector : RespId) (addr : HostAddr)
  | data (vector : RespId) (value : Word32)
  | mask (vector : RespId) (masked : Bool)
  | enable (on : Bool)
  deriving DecidableEq, Repr

/-- The bits of a store word found flipped by the check of R33 and R34: one, or two (uncorrectable). -/
inductive Flip where
  | single
  | double
  deriving DecidableEq, Repr

/-- The commands of the part, one constructor for each row of spec/opcode_table.json. The operands are the model's,
since the table gives the rows none (log 1): what comes from outside the part (a written value, the bytes a read
brings, calibration's outcome, flipped bits) and which ring, line, context or mover the step is taken for. -/
inductive Instr where
  /-- POWER_ON_RESET (R169). -/
  | powerOnReset
  /-- PIN_RESET (R169). -/
  | pinReset
  /-- LINK_RESET (R173): a hot reset, or with `lost` the loss of the link. -/
  | linkReset (lost : Bool)
  /-- ENABLE_SET (R164): a CONTROL write with bit 0 set; `upper` are bits 31 to 1 of the value written. -/
  | enableSet (upper : BitVec 31)
  /-- ENABLE_CLEAR (R164): a CONTROL write with bit 0 clear. -/
  | enableClear (upper : BitVec 31)
  /-- CONFIG_REGISTER_WRITE (R165). -/
  | configRegisterWrite (reg : ConfigReg) (value : Word32)
  /-- IDLE_DELAY_WRITE (R166). -/
  | idleDelayWrite (value : Word32)
  /-- REGISTER_WRITE (R163): a write of a width at a byte offset of the window. -/
  | registerWrite (offset : BitVec 8) (width : Width) (value : Word32)
  /-- POST_WRITE (R43). -/
  | postWrite (ring : RingId) (value : Word32)
  /-- RELEASE_WRITE (R148). -/
  | releaseWrite (ring : RespId) (value : Word32)
  /-- MESSAGE_CONFIGURATION (R162). -/
  | messageConfiguration (setting : MessageSetting)
  /-- REQUEST_PERMISSION_CHANGE (R161). -/
  | requestPermissionChange (granted : Bool)
  /-- WRITE_UNDELIVERABLE_REPORT (R161). -/
  | writeUndeliverableReport
  /-- CALIBRATION_COMPLETE (R21): `succeeded` or failed. -/
  | calibrationComplete (succeeded : Bool)
  /-- REFRESH_DUE (R36). -/
  | refreshDue
  /-- ORDINARY_REFRESH (R36). -/
  | ordinaryRefresh
  /-- FORCED_REFRESH (R37). -/
  | forcedRefresh
  /-- REFRESH_COMPLETE (R36). -/
  | refreshComplete
  /-- STORE_ACCESS_START (R32). -/
  | storeAccessStart
  /-- STORE_ACCESS_COMPLETE (R32): `flips` are words of the store in which bits have flipped since they were
  written (log 7). -/
  | storeAccessComplete (flips : List (Nat × Flip))
  /-- SELF_REFRESH_EXIT_END (R39). -/
  | selfRefreshExitEnd
  /-- FETCH_GRANT (R46). -/
  | fetchGrant
  /-- HOST_READ_COMPLETE (R160): every byte of host read `read` has arrived. -/
  | hostReadComplete (read : Nat) (bytes : List Byte)
  /-- HOST_READ_ERROR (R160). -/
  | hostReadError (read : Nat)
  /-- HOST_READ_TIMEOUT (R160). -/
  | hostReadTimeout (read : Nat)
  /-- DEPOSIT (R75): the start of the DEPOSIT first among the ring's WAITING records. -/
  | deposit (ring : RingId)
  /-- SKIP (R80). -/
  | skip (ring : RingId)
  /-- TAP (R91). -/
  | tap (ring : RingId)
  /-- MIX (R112): the first visit of the shape pass. -/
  | mix (ring : RingId)
  /-- MIX_LINE_VISIT (R113): the next visit of the MIX in a context. -/
  | mixLineVisit (ctx : CtxId)
  /-- OPEN_LINE (R127). -/
  | openLine
  /-- CLOSE_LINE (R129). -/
  | closeLine
  /-- LINE_DRAIN_COMPLETE (R132). -/
  | lineDrainComplete (line : LineId)
  /-- SET_LINE (R134). -/
  | setLine
  /-- SET_LINE_HELD_COMPLETE (R15). -/
  | setLineHeldComplete (line : LineId)
  /-- QUERY_LINE (R136). -/
  | queryLine
  /-- QUERY_STORE (R137). -/
  | queryStore
  /-- REPORT_WRITE (R138). -/
  | reportWrite (mover : MoverId)
  /-- CREATE_RING (R58). -/
  | createRing
  /-- DELETE_RING (R59). -/
  | deleteRing
  /-- RING_DRAIN_COMPLETE (R60). -/
  | ringDrainComplete (ring : RingId)
  /-- PAUSE_RING (R61). -/
  | pauseRing
  /-- RESUME_RING (R61). -/
  | resumeRing
  /-- CREATE_RESPONSE (R142). -/
  | createResponse
  /-- DELETE_RESPONSE (R143). -/
  | deleteResponse
  /-- MOVER_GRANT (R157). -/
  | moverGrant
  /-- COMMIT (R82): the writer a mover carries has stored its last frame. -/
  | commit (mover : MoverId)
  /-- WRITER_ABANDONED (R87). -/
  | writerAbandoned (mover : MoverId)
  /-- TAP_END_OF_MOVING (R106). -/
  | tapEndOfMoving (mover : MoverId)
  /-- MIX_END_OF_MOVING (R123). -/
  | mixEndOfMoving (mover : MoverId)
  /-- PARK_DEADLINE_EXPIRY (R96): the expiry of the operation in a context. -/
  | parkDeadlineExpiry (ctx : CtxId)
  /-- ITEM_WRITE (R146). -/
  | itemWrite
  /-- MODERATION_TIME_EXPIRY (R153). -/
  | moderationTimeExpiry (ring : RespId)
  /-- HOST_WRITE_ISSUE (R161). -/
  | hostWriteIssue
  /-- IDLE_DEADLINE_EXPIRY (R176). -/
  | idleDeadlineExpiry
  /-- CONTROL_WRITE (R177): a CONTROL write of any value. -/
  | controlWrite (value : Word32)
  /-- LINK_RETURN (R173). -/
  | linkReturn
  deriving DecidableEq, Repr

end Sys2Proof
end

