-- ==== Sys2Proof/Decode.lean ====
section
/-! DEFINITION. The decode of a command record (R50, R64 to R69) and its inverse, the bytes of a record; and the
reading of a word by the opcode table, which gives no row any bits. -/

namespace Sys2Proof

/-- The command a word spells by the bits of spec/opcode_table.json: no row of the table has bits, so none
(log 32). -/
def decodeTableWord (_nbits _w : Nat) : Option Instr := none

/-- The kind codes of R64. -/
def kindOfByte (b : Byte) : Option Kind :=
  match b.toNat with
  | 0x01 => some .deposit
  | 0x02 => some .skip
  | 0x03 => some .tap
  | 0x04 => some .mix
  | 0x20 => some .openLine
  | 0x21 => some .closeLine
  | 0x22 => some .setLine
  | 0x23 => some .queryLine
  | 0x24 => some .queryStore
  | 0x28 => some .createRing
  | 0x29 => some .deleteRing
  | 0x2A => some .pauseRing
  | 0x2B => some .resumeRing
  | 0x2C => some .createResponse
  | 0x2D => some .deleteResponse
  | _ => none

/-- The code of a kind (R64). -/
def kindCode : Kind → Nat
  | .deposit => 0x01
  | .skip => 0x02
  | .tap => 0x03
  | .mix => 0x04
  | .openLine => 0x20
  | .closeLine => 0x21
  | .setLine => 0x22
  | .queryLine => 0x23
  | .queryStore => 0x24
  | .createRing => 0x28
  | .deleteRing => 0x29
  | .pauseRing => 0x2A
  | .resumeRing => 0x2B
  | .createResponse => 0x2C
  | .deleteResponse => 0x2D

/-- Work kinds belong to rings 1 to 15, control kinds to ring 0 (R50, R64). -/
def isWorkKind : Kind → Bool
  | .deposit | .skip | .tap | .mix => true
  | .openLine | .closeLine | .setLine | .queryLine | .queryStore | .createRing | .deleteRing | .pauseRing
  | .resumeRing | .createResponse | .deleteResponse => false

/-- The slot counts R47 allows a kind code: 2 for MIX only, 1 for every kind, unknown ones included. -/
def slotsAllowed (kind : Byte) (slots : Nat) : Bool :=
  slots == 1 || (slots == 2 && kindOfByte kind == some .mix)

/-- The record kind of a body. -/
def kindOfBody : Body → Kind
  | .deposit .. => .deposit
  | .skip .. => .skip
  | .tap .. => .tap
  | .mix .. => .mix
  | .openLine .. => .openLine
  | .closeLine .. => .closeLine
  | .setLine .. => .setLine
  | .queryLine .. => .queryLine
  | .queryStore .. => .queryStore
  | .createRing .. => .createRing
  | .deleteRing .. => .deleteRing
  | .pauseRing .. => .pauseRing
  | .resumeRing .. => .resumeRing
  | .createResponse .. => .createResponse
  | .deleteResponse .. => .deleteResponse

/-- The outcome of decode (R50): a record, BAD_RECORD with its aux, or WRONG_RING. -/
inductive Decoded where
  | record (r : Record)
  | badRecord (aux : Nat)
  | wrongRing
  deriving DecidableEq, Repr

/-- A field check: the field's lowest offset, the detail code of its failure, whether it passes (R65). -/
structure FieldCheck where
  off : Nat
  code : Nat
  ok : Bool
  deriving DecidableEq, Repr

/-- The aux of the first check that fails: its detail code plus 65,536 times its offset (R65). -/
def firstFailure : List FieldCheck → Option Nat
  | [] => none
  | c :: cs => if c.ok then firstFailure cs else some (c.code + 65536 * c.off)

/-- Byte `i` of a record. -/
def byteAt (bs : List Byte) (i : Nat) : Nat := (bs.getD i 0).toNat

/-- `n` zero bytes from offset `lo`, each checked at its own offset with RESERVED (R64, R65; log 11). -/
def zeroChecks (bs : List Byte) (lo n : Nat) : List FieldCheck :=
  (List.range' lo n).map fun i => ⟨i, 2, byteAt bs i == 0⟩

/-- The flags of R64 by number: FENCE 0, NO_IRQ 1, ABSOLUTE 2, DEST_LINE 3. -/
def flagBit (bs : List Byte) (i : Nat) : Bool := (field bs 2 2).testBit i

/-- Whether the header's line byte names a line (R64). -/
def namesLine (bs : List Byte) : Kind → Bool
  | .deposit | .skip | .tap | .openLine | .closeLine | .setLine | .queryLine => true
  | .mix => flagBit bs 3
  | .queryStore | .createRing | .deleteRing | .pauseRing | .resumeRing | .createResponse | .deleteResponse => false

/-- The checks of the header's fields: flags at 2, line byte at 6, zero byte at 7 (R64, R65). -/
def headerChecks (bs : List Byte) (k : Kind) : List FieldCheck :=
  [⟨2, 3, decide (field bs 2 2 < 16) && (k == .tap || !flagBit bs 2) && (k == .mix || !flagBit bs 3)⟩,
   ⟨6, 2, namesLine bs k || byteAt bs 6 == 0⟩] ++ zeroChecks bs 7 1

/-- A host buffer, report buffer or ring base at offset `off`, aligned to `n` (ALIGN). -/
def alignCheck (bs : List Byte) (off n : Nat) : FieldCheck := ⟨off, 6, field bs off 8 % n == 0⟩

/-- A frame count of 1 to 65,536 at offset 16 (FRAMES). -/
def framesCheck (bs : List Byte) : FieldCheck :=
  ⟨16, 4, decide (1 ≤ field bs 16 4) && decide (field bs 16 4 ≤ 65536)⟩

/-- A wait of at most 4,000,000 at offset 20 (WAIT). -/
def waitCheck (bs : List Byte) : FieldCheck := ⟨20, 5, decide (field bs 20 4 ≤ 4000000)⟩

/-- The offset of tap entry `i`, counted from 0 (R67). -/
def tapOffset (i : Nat) : Nat := 28 + 12 * i

/-- The checks of tap entry `i`: within the tap count the mode and the entry's zero bytes, above it twelve zero
bytes (R67). -/
def tapChecks (bs : List Byte) (count i : Nat) : List FieldCheck :=
  if i < count then ⟨tapOffset i + 1, 16, decide (byteAt bs (tapOffset i + 1) ≤ 1)⟩ :: zeroChecks bs (tapOffset i + 10) 2
  else zeroChecks bs (tapOffset i) 12

/-- A byte field within a range. -/
def rangeCheck (bs : List Byte) (off code lo hi : Nat) : FieldCheck :=
  ⟨off, code, decide (lo ≤ byteAt bs off) && decide (byteAt bs off ≤ hi)⟩

/-- The policy and the lap notice settings at offsets 9 to 11 (R68). -/
def lineSettingChecks (bs : List Byte) : List FieldCheck :=
  [rangeCheck bs 9 9 0 1, rangeCheck bs 10 10 0 1,
   ⟨11, 10, decide (byteAt bs 11 ≤ 3) && (byteAt bs 10 == 1 || byteAt bs 11 == 0)⟩]

/-- The checks of a kind's body, in ascending order of offset (R65 to R69). -/
def bodyChecks (bs : List Byte) (slots : Nat) : Kind → List FieldCheck
  | .deposit => alignCheck bs 8 4 :: framesCheck bs :: zeroChecks bs 20 44
  | .skip => zeroChecks bs 8 8 ++ framesCheck bs :: zeroChecks bs 20 44
  | .tap => [alignCheck bs 8 4, framesCheck bs, waitCheck bs, ⟨30, 2, field bs 30 2 == 0⟩] ++ zeroChecks bs 34 30
  | .mix =>
      [(if flagBit bs 3 then ⟨8, 2, field bs 8 8 == 0⟩ else alignCheck bs 8 4), framesCheck bs, waitCheck bs,
        ⟨24, 15, (slots == 1 && decide (1 ≤ byteAt bs 24) && decide (byteAt bs 24 ≤ 3)) ||
                 (slots == 2 && decide (4 ≤ byteAt bs 24) && decide (byteAt bs 24 ≤ 8))⟩]
        ++ zeroChecks bs 25 3
        ++ (List.range (if slots == 2 then 8 else 3)).flatMap (tapChecks bs (byteAt bs 24))
        ++ (if slots == 2 then zeroChecks bs 124 4 else [])
  | .openLine =>
      rangeCheck bs 8 7 1 16 :: lineSettingChecks bs
        ++ ⟨12, 8, decide (1 ≤ field bs 12 4) && decide (field bs 12 4 ≤ 16777216)⟩ :: zeroChecks bs 16 48
  | .setLine => zeroChecks bs 8 1 ++ lineSettingChecks bs ++ zeroChecks bs 12 52
  | .closeLine => zeroChecks bs 8 56
  | .queryLine => alignCheck bs 8 16 :: zeroChecks bs 16 48
  | .queryStore => alignCheck bs 8 16 :: zeroChecks bs 16 48
  | .createRing =>
      [rangeCheck bs 8 11 1 15, rangeCheck bs 9 12 4 12, rangeCheck bs 10 13 0 3, rangeCheck bs 11 14 1 32,
        rangeCheck bs 12 11 0 3] ++ zeroChecks bs 13 3 ++ alignCheck bs 16 64 :: zeroChecks bs 24 40
  | .createResponse =>
      [rangeCheck bs 8 11 1 3, rangeCheck bs 9 12 4 13, rangeCheck bs 10 17 1 255, rangeCheck bs 11 18 0 1]
        ++ zeroChecks bs 14 2 ++ alignCheck bs 16 64 :: zeroChecks bs 24 40
  | .deleteRing => rangeCheck bs 8 11 1 15 :: zeroChecks bs 9 55
  | .pauseRing => rangeCheck bs 8 11 1 15 :: zeroChecks bs 9 55
  | .resumeRing => rangeCheck bs 8 11 1 15 :: zeroChecks bs 9 55
  | .deleteResponse => rangeCheck bs 8 11 1 3 :: zeroChecks bs 9 55

/-- The header's line byte. -/
def lineOf (bs : List Byte) : LineId := Fin.ofNat 256 (byteAt bs 6)

/-- A host address field. -/
def addrAt (bs : List Byte) (off : Nat) : HostAddr := BitVec.ofNat 64 (field bs off 8)

/-- The policy byte: 0 FREE_RUNNING, 1 GUARDED (R68). -/
def policyOf (n : Nat) : Policy := if n = 1 then .guarded else .freeRunning

/-- The lap notice settings of an OPEN_LINE or SET_LINE (R68). -/
def lapOf (bs : List Byte) : LapSetting := ⟨byteAt bs 10 == 1, Fin.ofNat 4 (byteAt bs 11)⟩

/-- Tap entry `i` (R67). -/
def tapOf (bs : List Byte) (i : Nat) : MixTap :=
  { line := Fin.ofNat 256 (byteAt bs (tapOffset i)), absolute := byteAt bs (tapOffset i + 1) == 1,
    gain := BitVec.ofNat 16 (field bs (tapOffset i + 2) 2), field := field bs (tapOffset i + 4) 6 }

/-- The decoded fields of a kind (R66 to R69). -/
def bodyOf (bs : List Byte) : Kind → Body
  | .deposit => .deposit (lineOf bs) (addrAt bs 8) (field bs 16 4)
  | .skip => .skip (lineOf bs) (field bs 16 4)
  | .tap => .tap (lineOf bs) (addrAt bs 8) (field bs 16 4) (field bs 20 4) (flagBit bs 2) (field bs 24 6)
      (BitVec.ofNat 16 (field bs 32 2))
  | .mix => .mix (if flagBit bs 3 then some (lineOf bs) else none) (addrAt bs 8) (field bs 16 4) (field bs 20 4)
      ((List.range (byteAt bs 24)).map (tapOf bs))
  | .openLine => .openLine (lineOf bs) (byteAt bs 8) (policyOf (byteAt bs 9)) (lapOf bs) (field bs 12 4)
  | .closeLine => .closeLine (lineOf bs)
  | .setLine => .setLine (lineOf bs) (policyOf (byteAt bs 9)) (lapOf bs)
  | .queryLine => .queryLine (lineOf bs) (addrAt bs 8)
  | .queryStore => .queryStore (addrAt bs 8)
  | .createRing => .createRing (Fin.ofNat 16 (byteAt bs 8)) (byteAt bs 9) (byteAt bs 10) (byteAt bs 11)
      (Fin.ofNat 4 (byteAt bs 12)) (addrAt bs 16)
  | .deleteRing => .deleteRing (Fin.ofNat 16 (byteAt bs 8))
  | .pauseRing => .pauseRing (Fin.ofNat 16 (byteAt bs 8))
  | .resumeRing => .resumeRing (Fin.ofNat 16 (byteAt bs 8))
  | .createResponse => .createResponse (Fin.ofNat 4 (byteAt bs 8)) (byteAt bs 9) (byteAt bs 10) (byteAt bs 11 == 1)
      (field bs 12 2) (addrAt bs 16)
  | .deleteResponse => .deleteResponse (Fin.ofNat 4 (byteAt bs 8))

/-- Decode of a taken record's bytes on a ring: the kind is known, belongs to the ring, and its fields are valid, in
that order (R50, R65). -/
def decodeRecord (ring : RingId) (bs : List Byte) : Decoded :=
  match kindOfByte (bs.getD 0 0) with
  | none => .badRecord 1
  | some k =>
    if isWorkKind k == decide (ring = 0) then .wrongRing
    else match firstFailure (headerChecks bs k ++ bodyChecks bs (byteAt bs 1) k) with
      | some aux => .badRecord aux
      | none => .record ⟨flagBit bs 0, flagBit bs 1, BitVec.ofNat 16 (field bs 4 2), bodyOf bs k⟩

/-- The slots a body's record takes: two for a MIX of 4 to 8 taps (R67). -/
def slotsOfBody : Body → Nat
  | .mix _ _ _ _ taps => if taps.length ≤ 3 then 1 else 2
  | .deposit .. | .skip .. | .tap .. | .openLine .. | .closeLine .. | .setLine .. | .queryLine .. | .queryStore ..
  | .createRing .. | .deleteRing .. | .pauseRing .. | .resumeRing .. | .createResponse .. | .deleteResponse .. => 1

/-- The header's line byte of a body (R64). -/
def lineByteOfBody : Body → Nat
  | .deposit l .. => l.val
  | .skip l .. => l.val
  | .tap l .. => l.val
  | .mix (some l) .. => l.val
  | .mix none .. => 0
  | .openLine l .. => l.val
  | .closeLine l => l.val
  | .setLine l .. => l.val
  | .queryLine l .. => l.val
  | .queryStore .. | .createRing .. | .deleteRing .. | .pauseRing .. | .resumeRing .. | .createResponse ..
  | .deleteResponse .. => 0

/-- The ABSOLUTE and DEST_LINE flags of a body (R64). -/
def flagsOfBody : Body → Nat
  | .tap _ _ _ _ absolute _ _ => if absolute then 4 else 0
  | .mix (some _) .. => 8
  | .mix none .. | .deposit .. | .skip .. | .openLine .. | .closeLine .. | .setLine .. | .queryLine ..
  | .queryStore .. | .createRing .. | .deleteRing .. | .pauseRing .. | .resumeRing .. | .createResponse ..
  | .deleteResponse .. => 0

/-- The policy byte (R68). -/
def policyByte : Policy → Nat
  | .freeRunning => 0
  | .guarded => 1

/-- A Bool as a byte value. -/
def boolByte (b : Bool) : Nat := if b then 1 else 0

/-- The twelve bytes of a tap entry (R67). -/
def tapBytesOf (t : MixTap) : List Byte :=
  leBytes 1 t.line.val ++ leBytes 1 (boolByte t.absolute) ++ leBytes 2 t.gain.toNat ++ leBytes 6 t.field ++ leBytes 2 0

/-- The bytes of a body from offset 8 on, without its trailing zero bytes (R66 to R69). -/
def bodyBytes : Body → List Byte
  | .deposit _ addr frames => leBytes 8 addr.toNat ++ leBytes 4 frames
  | .skip _ frames => leBytes 8 0 ++ leBytes 4 frames
  | .tap _ addr frames wait _ fld mask =>
      leBytes 8 addr.toNat ++ leBytes 4 frames ++ leBytes 4 wait ++ leBytes 6 fld ++ leBytes 2 0 ++ leBytes 2 mask.toNat
  | .mix _ addr frames wait taps =>
      leBytes 8 addr.toNat ++ leBytes 4 frames ++ leBytes 4 wait ++ leBytes 1 taps.length ++ leBytes 3 0
        ++ taps.flatMap tapBytesOf
  | .openLine _ channels policy lap cap =>
      leBytes 1 channels ++ leBytes 1 (policyByte policy) ++ leBytes 1 (boolByte lap.on) ++ leBytes 1 lap.target.val
        ++ leBytes 4 cap
  | .closeLine _ => []
  | .setLine _ policy lap =>
      leBytes 1 0 ++ leBytes 1 (policyByte policy) ++ leBytes 1 (boolByte lap.on) ++ leBytes 1 lap.target.val
  | .queryLine _ addr => leBytes 8 addr.toNat
  | .queryStore addr => leBytes 8 addr.toNat
  | .createRing ring logSize priority window resp base =>
      leBytes 1 ring.val ++ leBytes 1 logSize ++ leBytes 1 priority ++ leBytes 1 window ++ leBytes 1 resp.val
        ++ leBytes 3 0 ++ leBytes 8 base.toNat
  | .deleteRing ring => leBytes 1 ring.val
  | .pauseRing ring => leBytes 1 ring.val
  | .resumeRing ring => leBytes 1 ring.val
  | .createResponse ring logSize count interrupt time base =>
      leBytes 1 ring.val ++ leBytes 1 logSize ++ leBytes 1 count ++ leBytes 1 (boolByte interrupt) ++ leBytes 2 time
        ++ leBytes 2 0 ++ leBytes 8 base.toNat
  | .deleteResponse ring => leBytes 1 ring.val

/-- The bytes of a record, 64 for one slot and 128 for two: header, body, zero bytes (R64). -/
def encodeRecord (r : Record) : List Byte :=
  let head := leBytes 1 (kindCode (kindOfBody r.body)) ++ leBytes 1 (slotsOfBody r.body)
    ++ leBytes 2 (boolByte r.fence + 2 * boolByte r.noIrq + flagsOfBody r.body) ++ leBytes 2 r.tag.toNat
    ++ leBytes 1 (lineByteOfBody r.body) ++ leBytes 1 0
  let bytes := head ++ bodyBytes r.body
  bytes ++ List.replicate (64 * slotsOfBody r.body - bytes.length) 0

end Sys2Proof
end

