-- ==== Sys2Proof/Machine/Table.lean ====
section
/-! DEFINITION. A table of a fixed number of entries, kept as a list with the proof of its length, so that a lookup by
number is total and the kernel evaluates every operation by structural recursion. -/

namespace Sys2Proof

/-- A table of `n` entries. -/
structure Table (α : Type) (n : Nat) where
  rows : List α
  len : rows.length = n
  deriving DecidableEq, Repr

/-- A table with every entry `x`. -/
def Table.fill {α : Type} (n : Nat) (x : α) : Table α n := ⟨List.replicate n x, List.length_replicate⟩

/-- Entry `i`. -/
def Table.get {α : Type} {n : Nat} (t : Table α n) (i : Fin n) : α :=
  t.rows[i.val]'(by rw [t.len]; exact i.isLt)

/-- The table with entry `i` replaced by `x`. -/
def Table.set {α : Type} {n : Nat} (t : Table α n) (i : Fin n) (x : α) : Table α n :=
  ⟨t.rows.set i.val x, by rw [List.length_set, t.len]⟩

/-- The table with `f` applied to every entry. -/
def Table.map {α β : Type} {n : Nat} (f : α → β) (t : Table α n) : Table β n :=
  ⟨t.rows.map f, by rw [List.length_map, t.len]⟩

/-- Whether every entry satisfies `p`. -/
def Table.all {α : Type} {n : Nat} (t : Table α n) (p : α → Bool) : Bool := t.rows.all p

/-- The numbers below `n` for which `p` holds, ascending. -/
def Table.indices {α : Type} {n : Nat} (t : Table α n) (p : α → Bool) : List (Fin n) :=
  (List.finRange n).filter fun i => p (t.get i)

end Sys2Proof
end

