-- ==== Sys2Proof/Machine/State.lean ====
section
/-! DEFINITION. The state of the KL416 as plain data, block by block (00_scope.md, The blocks), the reasons a step can
stop, and the state right after power-on reset. -/

namespace Sys2Proof.Machine

/-- Why the machine stops. The spec has no machine check: errors are statuses, stop reasons and notices. -/
inductive Fault where
  /-- A store access outside the 1,073,741,824 bytes of the store (R20), raised by STORE_ACCESS_START. Safe: no line
  opened by OPEN_LINE maps a position there (log 41). -/
  | storeAddress
  deriving DecidableEq, Repr

/-- Why a command has no meaning. -/
inductive Refusal where
  /-- A command of the opcode table whose meaning is not written; raised by `exec` only. Safe. -/
  | notModelled (mnemonic : String)
  deriving DecidableEq, Repr

/-- The states of a command ring (R42). -/
inductive RingState where
  | disabled | running | paused | stopped | draining
  deriving DecidableEq, Repr

/-- Why a command ring stopped (R51), in the code order of R71. -/
inductive StopReason where
  | badPost | fetchFault | badSlots | responseFault
  deriving DecidableEq, Repr

/-- The states of a line (R6). -/
inductive LineState where
  | free | opened | closing
  deriving DecidableEq, Repr

/-- The phases of an operation (R55). -/
inductive Phase where
  | waiting | passing | parked | queued | guardWait | ready | moving | acting | done
  deriving DecidableEq, Repr

/-- The status codes, in the code order of R70. -/
inductive Status where
  | ok | overtaken | gone | notReady | expired | aborted | noLine | badRecord | tooLong
  | badShape | noSpace | lineBusy | positionLimit | hostFault | dataError | storeFault | wrongRing | ringBusy
  deriving DecidableEq, Repr

/-- The states of a response ring (R141). -/
inductive RespState where
  | absent | active | faulted
  deriving DecidableEq, Repr

/-- The store states (R21). -/
inductive StoreState where
  | calibrating | ready | fault
  deriving DecidableEq, Repr

/-- The power sub-states of the store: ACTIVE, SELF_REFRESH, and an exit in progress (R38, R39). -/
inductive Power where
  | active | selfRefresh | exiting
  deriving DecidableEq, Repr

/-- The kind of the latest reset, in the code order of R73. -/
inductive ResetCause where
  | powerOn | pin | link | function
  deriving DecidableEq, Repr

/-- The ENABLE bit: 0, 1 and held until calibration ends, 1 and taken effect (R164, R171). -/
inductive Enable where
  | off | held | on
  deriving DecidableEq, Repr

/-- The quiescence state (R175). IDLING keeps the idle deadline and the snapshot of the 16 post indices; QUIET keeps
the snapshot until the comparison at entry has been made (R176). -/
inductive Quiesce where
  | awake
  | idling (deadline : Nat) (snapshot : List Nat)
  | quiet (snapshot : Option (List Nat))
  deriving DecidableEq, Repr

/-- A run of consecutive blocks of the store (R20, R24). -/
structure Extent where
  start : Nat
  count : Nat
  deriving DecidableEq, Repr

/-- A writer in a line's write queue with its frame count (R8). -/
structure Writer where
  ctx : CtxId
  frames : Nat
  deriving DecidableEq, Repr

/-- An entry of a line's park list: the operation and the window end it waits for (R16). -/
structure Parked where
  ctx : CtxId
  windowEnd : Nat
  deriving DecidableEq, Repr

/-- A pin: a moving read and the window, from `lo` up to `hi` - 1, it is reading (R11). -/
structure Pin where
  ctx : CtxId
  lo : Nat
  hi : Nat
  deriving DecidableEq, Repr

/-- A line entry (R1). -/
structure Line where
  state : LineState
  channels : Nat
  cap : Nat
  policy : Policy
  w : Nat
  f : Nat
  lap : LapSetting
  lapPending : Bool
  extents : List Extent
  writers : List Writer
  park : List Parked
  pins : List Pin
  /-- A SET_LINE change to GUARDED is held until the moving writer ends (R15). -/
  held : Bool
  deriving DecidableEq, Repr

/-- A FREE line's values (R19). -/
def Line.freeLine : Line :=
  { state := .free, channels := 0, cap := 0, policy := .freeRunning, w := 0, f := 0, lap := ⟨false, 0⟩,
    lapPending := false, extents := [], writers := [], park := [], pins := [], held := false }

/-- A command ring's entry (R41), with its RING_STOPPED notice slot (R52) and its window (R54). -/
structure CmdRing where
  state : RingState
  base : HostAddr
  size : Nat
  prio : Nat
  windowSize : Nat
  resp : RespId
  take : Nat
  post : Nat
  held : Option Nat
  stop : Option StopReason
  notice : Option (StopReason × Nat)
  window : List CtxId
  deriving DecidableEq, Repr

/-- A DISABLED ring's entry (R63). DESIGN CHOICE (log 3): the fields that hold no value are zero. -/
def CmdRing.disabledRing : CmdRing :=
  { state := .disabled, base := 0, size := 0, prio := 0, windowSize := 0, resp := 0, take := 0, post := 0,
    held := none, stop := none, notice := none, window := [] }

/-- The fetch in progress: its ring, the context reserved for it, and the first slot once it has been read and the
second is awaited (R45, R47). -/
structure Fetch where
  ring : RingId
  ctx : CtxId
  first : Option (List Byte)
  deriving DecidableEq, Repr

/-- The Ring Fetcher (R41, R46). -/
structure RingFetcher where
  rings : Table CmdRing 16
  /-- The ring last granted at each priority level (R46). -/
  lastGrant : Table Nat 4
  fetch : Option Fetch
  deriving DecidableEq, Repr

/-- Where a MIX stands between the visits of its passes (R111). Numbers count taps or distinct source lines from 0. -/
inductive MixStage where
  /-- The next visit of the shape pass (R112); the number of taps means the destination. -/
  | shape (i : Nat)
  /-- The next visit of the placement pass of the start (R113). -/
  | place (i : Nat)
  /-- The next visit of a wake's placement pass (R116). -/
  | wake (i : Nat)
  /-- The visit to the destination line (R118). -/
  | join
  /-- The next source line of the re-check at a mover grant, a mover being bound (R119). -/
  | grant (k : Nat)
  /-- The next source line of the end of moving (R123). -/
  | ending (k : Nat)
  /-- The end at the destination line, with the status decided (R123). -/
  | destination (status : Status) (pos aux : Nat)
  deriving DecidableEq, Repr

/-- A settled result (R54, R70). -/
structure Settled where
  status : Status
  pos : Nat
  aux : Nat
  deriving DecidableEq, Repr

/-- An operation context in use (R54). -/
structure Operation where
  ring : RingId
  /-- The take index of the record's first slot, and its slot count. -/
  take : Nat
  slots : Nat
  tag : BitVec 16
  fence : Bool
  noIrq : Bool
  /-- The decoded fields; none for a record that failed decode (R50). -/
  body : Option Body
  phase : Phase
  /-- The resolved window starts, in tap order (R92, R113). -/
  starts : List Nat
  deadline : Option Nat
  /-- The number of the tap a PARKED MIX waits for (R111). -/
  waitTap : Nat
  /-- Closed marks (R115, R131). -/
  marks : List LineId
  stage : Option MixStage
  /-- How many operations a CLOSE_LINE ended (R129). -/
  ended : Nat
  result : Option Settled
  deriving DecidableEq, Repr

/-- The Scheduler: the contexts (R53) and the READY operations with no mover bound, in the order they became READY
(R157). -/
structure Scheduler where
  ctxs : Table (Option Operation) 257
  ready : List CtxId
  deriving DecidableEq, Repr

/-- A run of positions a mover reads from a line (R31), with the bytes of it delivered so far. -/
structure Run where
  line : LineId
  start : Nat
  frames : Nat
  data : List Byte
  deriving DecidableEq, Repr

/-- A carrying mover (R156). -/
structure Mover where
  ctx : CtxId
  /-- The runs it reads; empty while a MIX's re-check is in progress. -/
  runs : List Run
  /-- Bytes of a writer's run that have been stored. -/
  written : Nat
  /-- Bytes of the host buffer requested (DEPOSIT) or handed over (TAP, MIX). -/
  hostDone : Nat
  /-- The completed transfers of a DEPOSIT, by number (R159). -/
  arrived : List (Nat × List Byte)
  /-- The output computed so far: a TAP's packed samples, or the Mix Unit's (R102, R121). -/
  out : List Byte
  /-- The lowest position reported for an uncorrectable word, with the tap whose run reported it (R34, R120). -/
  firstBad : Option (Nat × Nat)
  /-- The lowest-numbered tap found overtaken (R123). -/
  overtaken : Option Nat
  /-- The clip count (R121). -/
  clips : Nat
  /-- The lowest host address at which a failed read began (R86). -/
  failedAt : Option HostAddr
  /-- The report gathered for a query, with the result position and aux it completes with (R136, R137). -/
  report : Option (List Byte × Nat × Nat)
  deriving DecidableEq, Repr

/-- A store access (R32): one burst of a mover. -/
structure Access where
  /-- none once a reset has made the mover abandon its operation (R158). -/
  mover : Option MoverId
  /-- The run a read burst belongs to. -/
  run : Nat
  addr : Nat
  len : Nat
  /-- The bytes a write burst stores; none for a read. -/
  write : Option (List Byte)
  deriving DecidableEq, Repr

/-- What is in progress at the store (R32). -/
inductive Busy where
  | access (a : Access)
  | refresh
  deriving DecidableEq, Repr

/-- The Store Controller (02_the_line_store.md). -/
structure StoreController where
  state : StoreState
  power : Power
  /-- The line store, sparse (R20): addresses strictly rising, no byte equal to what an unlisted address reads as. -/
  cells : List Host.Cell
  /-- The words with bits in error, ascending (R33, R34). -/
  marks : List (Nat × Flip)
  /-- The free extent table (R24). -/
  freeExts : List Extent
  corrected : Nat
  forced : Nat
  debt : Nat
  /-- The interval timer, in tenths of a microsecond (R36). -/
  timer : Nat
  waiting : List Access
  busy : Option Busy
  faultPending : Bool
  deriving DecidableEq, Repr

/-- The record of a response ring's fault: cause, release value, unreleased count (R148). -/
structure FaultInfo where
  cause : Nat
  value : Nat
  count : Nat
  deriving DecidableEq, Repr

/-- A response ring's entry (R140); its post queue is its part of `ResponseUnit.posts`. -/
structure RespRing where
  state : RespState
  base : HostAddr
  size : Nat
  fill : Nat
  phase : Bool
  release : Nat
  unreleased : Nat
  intOn : Bool
  modCount : Nat
  modTime : Nat
  unsignalled : Nat
  oldest : Option Nat
  fault : Option FaultInfo
  deriving DecidableEq, Repr

/-- An ABSENT response ring's entry. DESIGN CHOICE (log 3): the fields that hold no value are zero. -/
def RespRing.absentRing : RespRing :=
  { state := .absent, base := 0, size := 0, fill := 0, phase := false, release := 0, unreleased := 0, intOn := false,
    modCount := 0, modTime := 0, unsignalled := 0, oldest := none, fault := none }

/-- An item that is settled and not yet written (R145). -/
inductive PostItem where
  | completion (ctx : CtxId)
  | lap (line : LineId)
  | ringStopped (ring : RingId)
  | storeFault
  | respFaulted (ring : RespId)
  deriving DecidableEq, Repr

/-- An entry of a post queue: the response ring and the item. -/
structure Posted where
  ring : RespId
  item : PostItem
  deriving DecidableEq, Repr

/-- The Response Unit (09_response_rings_notices_and_interrupts.md). -/
structure ResponseUnit where
  rings : Table RespRing 4
  /-- The four post queues as one list in joining order (log 12). -/
  posts : List Posted
  /-- The RESPONSE_FAULTED notice slots (R152). -/
  faultSlots : Table (Option FaultInfo) 4
  deriving DecidableEq, Repr

/-- What a host write carries (R161, R162). -/
inductive WriteKind where
  | data
  | report
  | item (ring : RespId)
  | message (vector : RespId)
  deriving DecidableEq, Repr

/-- One host write of the host write queue (R161). -/
structure HostWrite where
  kind : WriteKind
  addr : HostAddr
  bytes : List Byte
  deriving DecidableEq, Repr

/-- A requester waiting for a place in the host write queue (R161). Data and messages bring their writes and join by
themselves; the Response Unit's item and a query's report hold the place for the step that hands them over. -/
inductive Waiter where
  | data (mover : MoverId) (writes : List HostWrite)
  | message (write : HostWrite)
  | item
  | report (mover : MoverId)
  deriving DecidableEq, Repr

/-- Who asked for a host read (R160); `nobody` once a reset has made its requester abandon it. -/
inductive Requester where
  | fetch
  | mover (mover : MoverId) (transfer : Nat)
  | nobody
  deriving DecidableEq, Repr

/-- A host read: its number, requester, address, length, and the time it was issued, if it has been (R160, R161). -/
structure HostRead where
  number : Nat
  requester : Requester
  addr : HostAddr
  len : Nat
  issued : Option Nat
  deriving DecidableEq, Repr

/-- A message vector (R162). -/
structure MsgVector where
  addr : HostAddr
  data : Word32
  masked : Bool
  pending : Bool
  deriving DecidableEq, Repr

/-- A cleared vector (R162; log 5). -/
def MsgVector.cleared : MsgVector := { addr := 0, data := 0, masked := false, pending := false }

/-- The Host Port (10_movers_and_the_host_port.md). -/
structure HostPort where
  enable : Enable
  idleDelay : BitVec 16
  ctrlBaseLo : Word32
  ctrlBaseHi : Word32
  ctrlSize : BitVec 8
  resp0BaseLo : Word32
  resp0BaseHi : Word32
  resp0Size : BitVec 8
  resp0Mod : Word32
  configError : Bool
  resetCause : ResetCause
  quiesce : Quiesce
  linkUp : Bool
  permitted : Bool
  writeQ : List HostWrite
  waiters : List Waiter
  reads : List HostRead
  nextRead : Nat
  vectors : Table MsgVector 4
  msgEnable : Bool
  deriving DecidableEq, Repr

/-- A request issued on the host link: a memory read, or a memory write (R159, R161). -/
inductive LinkRequest where
  | read (addr : HostAddr) (len : Nat)
  | write (write : HostWrite)
  deriving DecidableEq, Repr

/-- The whole state of the part, block by block, with the queue of waiting commands and the record of the requests
issued on the link (both the model's own). -/
structure State where
  /-- The commands that are waiting, first in, first out (the model's own). -/
  pending : List Instr
  /-- The time base in microseconds (R169). -/
  now : Nat
  /-- The requests issued on the host link, oldest first (the model's own; log 8). -/
  link : List LinkRequest
  host : HostPort
  fetcher : RingFetcher
  sched : Scheduler
  lines : Table Line 256
  /-- The Park Timer: a deadline for each operation on a park list (R95). -/
  parkTimer : List (CtxId × Nat)
  movers : Table (Option Mover) 4
  store : StoreController
  resp : ResponseUnit
  deriving DecidableEq, Repr

/-- The Host Port after power-on reset (R168). DESIGN CHOICE (log 4): the link is up and requests are permitted. -/
def HostPort.reset : HostPort :=
  { enable := .off, idleDelay := 0, ctrlBaseLo := 0, ctrlBaseHi := 0, ctrlSize := 0, resp0BaseLo := 0,
    resp0BaseHi := 0, resp0Size := 0, resp0Mod := 0, configError := false, resetCause := .powerOn, quiesce := .awake,
    linkUp := true, permitted := true, writeQ := [], waiters := [], reads := [], nextRead := 0,
    vectors := Table.fill 4 MsgVector.cleared, msgEnable := false }

/-- The Ring Fetcher after any reset (R63). -/
def RingFetcher.reset : RingFetcher :=
  { rings := Table.fill 16 CmdRing.disabledRing, lastGrant := Table.fill 4 0, fetch := none }

/-- The Scheduler after any reset (R63). -/
def Scheduler.reset : Scheduler := { ctxs := Table.fill 257 none, ready := [] }

/-- The Store Controller after power-on or pin reset (R40). -/
def StoreController.reset : StoreController :=
  { state := .calibrating, power := .active, cells := [], marks := [], freeExts := [⟨0, Config.storeBlocks⟩],
    corrected := 0, forced := 0, debt := 0, timer := 0, waiting := [], busy := none, faultPending := false }

/-- The Response Unit after any reset (R155). -/
def ResponseUnit.reset : ResponseUnit :=
  { rings := Table.fill 4 RespRing.absentRing, posts := [], faultSlots := Table.fill 4 none }

/-- The part right after power-on reset: calibration has begun and nothing else has happened (R170). -/
def State.reset : State :=
  { pending := [], now := 0, link := [], host := HostPort.reset, fetcher := RingFetcher.reset,
    sched := Scheduler.reset, lines := Table.fill 256 Line.freeLine, parkTimer := [],
    movers := Table.fill 4 none, store := StoreController.reset, resp := ResponseUnit.reset }

end Sys2Proof.Machine
end

