-- ==== Sys2Proof/Machine/Memory.lean ====
section
/-! DEFINITION. The line store as a sparse list of bytes in one canonical form (R20), and the error marks of its
32-byte words (R33 to R35). -/

namespace Sys2Proof.Machine

/-- The byte at a store address; what nothing has written reads as `Config.unwritten` (log 6). -/
def Memory.read : List Host.Cell → Nat → Byte
  | [], _ => Config.unwritten
  | (a, b) :: rest, addr => if addr = a then b else Memory.read rest addr

/-- The store with one byte written; writing what an unlisted address reads as removes the entry. -/
def Memory.write : List Host.Cell → Nat → Byte → List Host.Cell
  | [], addr, x => if x = Config.unwritten then [] else [(addr, x)]
  | (a, b) :: rest, addr, x =>
    if addr < a then (if x = Config.unwritten then (a, b) :: rest else (addr, x) :: (a, b) :: rest)
    else if addr = a then (if x = Config.unwritten then rest else (a, x) :: rest)
    else (a, b) :: Memory.write rest addr x

/-- `n` bytes from a store address. -/
def Memory.readBytes (cells : List Host.Cell) (addr n : Nat) : List Byte :=
  (List.range' addr n).map (Memory.read cells)

/-- The store with the bytes written from a store address on, in ascending order. -/
def Memory.writeBytes (cells : List Host.Cell) (addr : Nat) : List Byte → List Host.Cell
  | [] => cells
  | b :: bs => Memory.writeBytes (Memory.write cells addr b) (addr + 1) bs

/-- The canonical form from a lower bound on: addresses strictly rising, every byte listed differs from what an
unlisted address reads as. -/
def Memory.wfFrom : Nat → List Host.Cell → Bool
  | _, [] => true
  | lo, (a, b) :: rest => decide (lo ≤ a) && decide (b ≠ Config.unwritten) && Memory.wfFrom (a + 1) rest

/-- The canonical form of the store. -/
def Memory.wf (cells : List Host.Cell) : Bool := Memory.wfFrom 0 cells

/-- The bits a word has in error: none, one, or two (R33, R34). -/
def markOf : List (Nat × Flip) → Nat → Option Flip
  | [], _ => none
  | (v, e) :: rest, w => if w = v then some e else markOf rest w

/-- The marks with word `w`'s mark cleared. -/
def clearMark : List (Nat × Flip) → Nat → List (Nat × Flip)
  | [], _ => []
  | (v, e) :: rest, w => if w = v then rest else (v, e) :: clearMark rest w

/-- The marks with word `w` marked `e`. -/
def putMark : List (Nat × Flip) → Nat → Flip → List (Nat × Flip)
  | [], w, e => [(w, e)]
  | (v, d) :: rest, w, e =>
    if w < v then (w, e) :: (v, d) :: rest else if w = v then (w, e) :: rest else (v, d) :: putMark rest w e

/-- Bits found flipped in a word: a word already uncorrectable stays so, until a write clears its mark (R34). -/
def addFlip (marks : List (Nat × Flip)) (x : Nat × Flip) : List (Nat × Flip) :=
  if markOf marks x.1 = some .double then marks else putMark marks x.1 x.2

/-- The store words a burst covers (R31). -/
def wordsOf (addr len : Nat) : List Nat :=
  if len = 0 then []
  else List.range' (addr / Config.wordBytes)
    ((addr + len - 1) / Config.wordBytes + 1 - addr / Config.wordBytes)

/-- Whether a burst covers a word whole (R35). -/
def coversWord (addr len word : Nat) : Bool :=
  decide (addr ≤ Config.wordBytes * word) && decide (Config.wordBytes * (word + 1) ≤ addr + len)

/-- A count of R33 or R37 raised; it stops at 4,294,967,295. -/
def countUp (n k : Nat) : Nat := min Config.countMax (n + k)

end Sys2Proof.Machine
end

