-- ==== Sys2Proof/Machine/Extents.lean ====
section
/-! DEFINITION. The free extent table: allocation, return, and the mapping of a line's bytes to the store
(R24 to R31). -/

namespace Sys2Proof.Machine

/-- The blocks a list of extents covers. -/
def blocksOf (es : List Extent) : Nat := (es.map Extent.count).sum

/-- The blocks a line of a capacity and channel count needs: C times the frame size, over 4,096, rounded up (R25). -/
def blocksNeeded (cap channels : Nat) : Nat :=
  (cap * (4 * channels) + (Config.blockBytes - 1)) / Config.blockBytes

/-- First fit (R26): the first free extent of at least `need` blocks gives its first `need` blocks. -/
def firstFit (need : Nat) : List Extent → Option (Extent × List Extent)
  | [] => none
  | e :: es =>
    if need ≤ e.count then
      some (⟨e.start, need⟩, if e.count = need then es else ⟨e.start + need, e.count - need⟩ :: es)
    else (firstFit need es).map fun r => (r.1, e :: r.2)

/-- The extent the gathering pass considers next: the greatest count, among equal counts the lower start (R27). -/
def largest : List Extent → Option Extent
  | [] => none
  | e :: es =>
    match largest es with
    | none => some e
    | some d => if e.count > d.count || (e.count == d.count && decide (e.start ≤ d.start)) then some e else some d

/-- The free table with the first `n` blocks of the free extent that begins at `start` taken. -/
def takeFrom (start n : Nat) : List Extent → List Extent
  | [] => []
  | e :: es =>
    if e.start = start then (if e.count = n then es else ⟨e.start + n, e.count - n⟩ :: es)
    else e :: takeFrom start n es

/-- The gathering pass (R27): at most `k` extents, largest first, the last taken only as far as needed. -/
def gather : Nat → Nat → List Extent → Option (List Extent × List Extent)
  | 0, _, _ => none
  | k + 1, need, frees =>
    match largest frees with
    | none => none
    | some e =>
      if need ≤ e.count then some ([⟨e.start, need⟩], takeFrom e.start need frees)
      else (gather k (need - e.count) (takeFrom e.start e.count frees)).map fun r => (e :: r.1, r.2)

/-- Allocation of `need` blocks (R26, R27): the extents taken, in taking order, and the free table after. -/
def allocate (need : Nat) (frees : List Extent) : Option (List Extent × List Extent) :=
  match firstFit need frees with
  | some (e, rest) => some ([e], rest)
  | none => gather Config.maxExtents need frees

/-- The return of one extent, placed by start block and merged with the neighbours it touches (R28). -/
def returnExtent (e : Extent) : List Extent → List Extent
  | [] => [e]
  | f :: fs =>
    if e.start + e.count < f.start then e :: f :: fs
    else if e.start + e.count = f.start then ⟨e.start, e.count + f.count⟩ :: fs
    else if f.start + f.count = e.start then
      match fs with
      | [] => [⟨f.start, f.count + e.count⟩]
      | g :: gs =>
        if e.start + e.count = g.start then ⟨f.start, f.count + e.count + g.count⟩ :: gs
        else ⟨f.start, f.count + e.count⟩ :: g :: gs
    else f :: returnExtent e fs

/-- The return of a line's extents, in list order (R28). -/
def returnExtents (es : List Extent) (frees : List Extent) : List Extent := es.foldl (fun t e => returnExtent e t) frees

/-- The store address of a logical byte of a line, its extents laid end to end (R30). A byte beyond them maps outside
the store. -/
def storeAddr : List Extent → Nat → Nat
  | [], _ => Config.storeBytes
  | e :: es, logical =>
    if logical < Config.blockBytes * e.count then Config.blockBytes * e.start + logical
    else storeAddr es (logical - Config.blockBytes * e.count)

/-- The frame size of a line: 4 times its channels (R1). -/
def frameSize (l : Line) : Nat := 4 * l.channels

/-- The logical byte of a line at which byte `j` of the run of positions from `start` on stands (R30, R31). -/
def logicalByte (l : Line) (start j : Nat) : Nat :=
  ((start + j / frameSize l) % l.cap) * frameSize l + j % frameSize l

/-- The burst that carries a run of `total` bytes on from byte `j`: its store address and length. It ends at the
earliest of a block boundary, the end of the run, the limit of 16 words, and the wrap to frame index 0
(R20, R31; the wrap: log 19). -/
def burstAt (l : Line) (start total j : Nat) : Nat × Nat :=
  let logical := logicalByte l start j
  let addr := storeAddr l.extents logical
  (addr, min (min (total - j) (l.cap * frameSize l - logical))
    (min (Config.blockBytes - addr % Config.blockBytes) (Config.burstBytes - addr % Config.wordBytes)))

/-- Whether a frame of a line, at position `q`, has a byte in a store word (R34). -/
def frameInWord (l : Line) (q word : Nat) : Bool :=
  (List.range l.channels).any fun c => storeAddr l.extents ((q % l.cap) * frameSize l + 4 * c) / Config.wordBytes == word

/-- The lowest position of a run whose frame has a byte in a word (R34). -/
def lowestInWord (l : Line) (start frames word : Nat) : Option Nat :=
  ((List.range' start frames).find? fun q => frameInWord l q word)

end Sys2Proof.Machine
end

