-- ==== Sys2Proof/Machine/Operands.lean ====
section
/-! DEFINITION. What the rules read from a line entry and from a record: the bounds O and O′, lap count and queued
frames of a line, the lines and frame count a record names, its windows, and the cutting of host buffers into
transfers. -/

namespace Sys2Proof.Machine

/-- O, the oldest retained position (R4). -/
def oldest (l : Line) : Nat := max l.f (l.w - l.cap)

/-- The frame count of the active writer, the head of the write queue, or 0 (R1, R4). -/
def activeFrames (l : Line) : Nat :=
  match l.writers with
  | [] => 0
  | x :: _ => x.frames

/-- O′, the oldest retained position counting the active writer (R4). -/
def oldestCounting (l : Line) : Nat := max l.f (l.w + activeFrames l - l.cap)

/-- The overtake bound with `k` frames of a moving writer counted (R104). -/
def overtakeBound (l : Line) (k : Nat) : Nat := max l.f (l.w + k - l.cap)

/-- The lap count: the whole part of W over C (R5). -/
def lapCount (l : Line) : Nat := l.w / l.cap

/-- The frames of the writers in the write queue (R8). -/
def queuedFrames (l : Line) : Nat := (l.writers.map Writer.frames).sum

/-- The floor the abandoned-write rule leaves (R3, R87). -/
def abandonedFloor (l : Line) (frames : Nat) : Nat := max l.f (l.w + frames - l.cap)

/-- Whether a pin shares a position with the active writer's overwrite range, W - C up to W + M - C - 1, clipped at 0
(R12). -/
def pinTouches (l : Line) (x : Pin) : Bool :=
  decide (x.lo < l.w + activeFrames l - l.cap) && decide (l.w - l.cap < x.hi) && decide (x.lo < x.hi)
    && decide (l.w - l.cap < l.w + activeFrames l - l.cap)

/-- The guard check: no pin touches the overwrite range (R12). -/
def guardPasses (l : Line) : Bool := !l.pins.any (pinTouches l)

/-- A drained line: write queue, park list and pins empty (R6, R132). -/
def drained (l : Line) : Bool := l.writers.isEmpty && l.park.isEmpty && l.pins.isEmpty

/-- The park list with an entry added after every entry whose window end is at or below its own (R16). -/
def parkInsert (x : Parked) : List Parked → List Parked
  | [] => [x]
  | y :: ys => if y.windowEnd ≤ x.windowEnd then y :: parkInsert x ys else x :: y :: ys

/-- The frame count M or N of a work record, 0 for a control record (R66, R67). -/
def framesOf : Body → Nat
  | .deposit _ _ frames => frames
  | .skip _ frames => frames
  | .tap _ _ frames .. => frames
  | .mix _ _ frames .. => frames
  | .openLine .. | .closeLine .. | .setLine .. | .queryLine .. | .queryStore .. | .createRing .. | .deleteRing ..
  | .pauseRing .. | .resumeRing .. | .createResponse .. | .deleteResponse .. => 0

/-- The wait of a TAP or MIX (R66, R67). -/
def waitOf : Body → Nat
  | .tap _ _ _ wait .. => wait
  | .mix _ _ _ wait _ => wait
  | .deposit .. | .skip .. | .openLine .. | .closeLine .. | .setLine .. | .queryLine .. | .queryStore ..
  | .createRing .. | .deleteRing .. | .pauseRing .. | .resumeRing .. | .createResponse .. | .deleteResponse .. => 0

/-- The line a writer writes: that of a DEPOSIT or SKIP, the destination of a MIX with DEST_LINE (R56). -/
def destOf : Body → Option LineId
  | .deposit l .. => some l
  | .skip l .. => some l
  | .mix dest .. => dest
  | .tap .. | .openLine .. | .closeLine .. | .setLine .. | .queryLine .. | .queryStore .. | .createRing ..
  | .deleteRing .. | .pauseRing .. | .resumeRing .. | .createResponse .. | .deleteResponse .. => none

/-- The lines a record reads: the line of a TAP, the tap lines of a MIX (R56). -/
def sourcesOf : Body → List LineId
  | .tap l .. => [l]
  | .mix _ _ _ _ taps => taps.map MixTap.line
  | .deposit .. | .skip .. | .openLine .. | .closeLine .. | .setLine .. | .queryLine .. | .queryStore ..
  | .createRing .. | .deleteRing .. | .pauseRing .. | .resumeRing .. | .createResponse .. | .deleteResponse .. => []

/-- The lines a work record names, as a source or as a destination (R56). -/
def namedLines (b : Body) : List LineId := sourcesOf b ++ (destOf b).toList

/-- The distinct lines of a list, in the order of first appearance (R119, R123). -/
def firstAppearances : List LineId → List LineId
  | [] => []
  | l :: ls => l :: (firstAppearances ls).filter (· ≠ l)

/-- The taps of a MIX, empty for another kind. -/
def tapsOf : Body → List MixTap
  | .mix _ _ _ _ taps => taps
  | .deposit .. | .skip .. | .tap .. | .openLine .. | .closeLine .. | .setLine .. | .queryLine .. | .queryStore ..
  | .createRing .. | .deleteRing .. | .pauseRing .. | .resumeRing .. | .createResponse .. | .deleteResponse .. => []

/-- The host buffer of a record: source, destination or report. -/
def bufferOf : Body → HostAddr
  | .deposit _ addr _ => addr
  | .tap _ addr .. => addr
  | .mix _ addr .. => addr
  | .queryLine _ addr => addr
  | .queryStore addr => addr
  | .skip .. | .openLine .. | .closeLine .. | .setLine .. | .createRing .. | .deleteRing .. | .pauseRing ..
  | .resumeRing .. | .createResponse .. | .deleteResponse .. => 0

/-- The window start a delay or position field names on a line: W - D, none when D exceeds W, or the position
(R92, R113). -/
def windowStart (l : Line) (absolute : Bool) (fld : Nat) : Option Nat :=
  if absolute then some fld else if fld ≤ l.w then some (l.w - fld) else none

/-- The channels a TAP's mask selects, ascending; a mask of 0 selects every channel (R91, R102). -/
def selectedChannels (l : Line) (mask : BitVec 16) : List Nat :=
  (List.range l.channels).filter fun c => mask == 0 || mask.getLsbD c

/-- Whether every set bit of a channel mask is below the channel count (R91). -/
def maskFits (l : Line) (mask : BitVec 16) : Bool := decide (mask.toNat < 2 ^ l.channels)

/-- The requests of a transfer of host bytes: one, or two where it crosses from 2^64 - 1 to 0 (R179). -/
def splitAddr (addr : HostAddr) (len : Nat) : List (HostAddr × Nat) :=
  if addr.toNat + len ≤ 2 ^ 64 then [(addr, len)] else [(addr, 2 ^ 64 - addr.toNat), (0, len - (2 ^ 64 - addr.toNat))]

/-- The host writes of a run of bytes, split at the top of the address space (R179). -/
def splitWrite (kind : WriteKind) (addr : HostAddr) (bytes : List Byte) : List HostWrite :=
  if addr.toNat + bytes.length ≤ 2 ^ 64 then [⟨kind, addr, bytes⟩]
  else [⟨kind, addr, bytes.take (2 ^ 64 - addr.toNat)⟩, ⟨kind, 0, bytes.drop (2 ^ 64 - addr.toNat)⟩]

/-- The address of transfer `x` of a buffer (R159). -/
def transferAddr (buffer : HostAddr) (x : Nat) : HostAddr := buffer + BitVec.ofNat 64 (Config.transferBytes * x)

/-- The length of transfer `x` of a buffer of `total` bytes (R159). -/
def transferLen (total x : Nat) : Nat := min Config.transferBytes (total - Config.transferBytes * x)

end Sys2Proof.Machine
end

