-- ==== Sys2Proof/Machine/Ops.lean ====
section
/-! DEFINITION. The named operations the commands share: reading and writing the tables, phases and completions, the
post queues and notices, the write queues, pins and drains of lines, the host write queue and host reads, interrupts,
quiescence. -/

namespace Sys2Proof.Machine

/-- What a command answers. -/
abbrev Answer := Host.Outcome State Fault Refusal

/-! ### The tables -/

/-- Line `n`'s entry. -/
def State.line (s : State) (n : LineId) : Line := s.lines.get n

/-- The state with line `n`'s entry replaced. -/
def State.setLine (s : State) (n : LineId) (l : Line) : State := { s with lines := s.lines.set n l }

/-- Context `c`: none while it is free. -/
def State.ctx (s : State) (c : CtxId) : Option Operation := s.sched.ctxs.get c

/-- The state with context `c` replaced. -/
def State.setCtx (s : State) (c : CtxId) (o : Option Operation) : State :=
  { s with sched := { s.sched with ctxs := s.sched.ctxs.set c o } }

/-- Command ring `k`'s entry. -/
def State.ring (s : State) (k : RingId) : CmdRing := s.fetcher.rings.get k

/-- The state with command ring `k`'s entry replaced. -/
def State.setRing (s : State) (k : RingId) (x : CmdRing) : State :=
  { s with fetcher := { s.fetcher with rings := s.fetcher.rings.set k x } }

/-- Response ring `r`'s entry. -/
def State.respRing (s : State) (r : RespId) : RespRing := s.resp.rings.get r

/-- The state with response ring `r`'s entry replaced. -/
def State.setRespRing (s : State) (r : RespId) (x : RespRing) : State :=
  { s with resp := { s.resp with rings := s.resp.rings.set r x } }

/-- Mover `m`: none while it is free. -/
def State.mover (s : State) (m : MoverId) : Option Mover := s.movers.get m

/-- The state with mover `m` replaced. -/
def State.setMover (s : State) (m : MoverId) (x : Option Mover) : State := { s with movers := s.movers.set m x }

/-- The state with the Host Port replaced. -/
def State.setHost (s : State) (h : HostPort) : State := { s with host := h }

/-- The state with the Store Controller replaced. -/
def State.setStore (s : State) (c : StoreController) : State := { s with store := c }

/-- The state with the post queues replaced. -/
def State.setPosts (s : State) (p : List Posted) : State := { s with resp := { s.resp with posts := p } }

/-- The state with a RESPONSE_FAULTED slot replaced (R152). -/
def State.setFaultSlot (s : State) (r : RespId) (x : Option FaultInfo) : State :=
  { s with resp := { s.resp with faultSlots := s.resp.faultSlots.set r x } }

/-- The state with the list of READY operations replaced (R157). -/
def State.setReady (s : State) (l : List CtxId) : State := { s with sched := { s.sched with ready := l } }

/-- The state with the Park Timer's deadlines replaced (R95). -/
def State.setParkTimer (s : State) (l : List (CtxId × Nat)) : State := { s with parkTimer := l }

/-- The state with the fetch in progress replaced (R45). -/
def State.setFetch (s : State) (f : Option Fetch) : State := { s with fetcher := { s.fetcher with fetch := f } }

/-- The operation in context `c` changed by `g`; nothing for a free context. -/
def State.modCtx (s : State) (c : CtxId) (g : Operation → Operation) : State :=
  match s.ctx c with
  | none => s
  | some o => s.setCtx c (some (g o))

/-- The operation in a context is in a phase (R55). -/
def State.inPhase (s : State) (c : CtxId) (p : Phase) : Bool :=
  match s.ctx c with
  | none => false
  | some o => o.phase == p

/-- The operation in a context put in a phase (R55). -/
def State.setPhase (s : State) (c : CtxId) (p : Phase) : State := s.modCtx c fun o => { o with phase := p }

/-! ### Completions and notices -/

/-- An item joins response ring `r`'s post queue, if the ring is ACTIVE; otherwise it is dropped (R145). -/
def post (r : RespId) (i : PostItem) (s : State) : State :=
  if (s.respRing r).state = .active then s.setPosts (s.resp.posts ++ [⟨r, i⟩]) else s

/-- A context is freed and leaves its ring's window (R53, R54). -/
def freeCtx (c : CtxId) (s : State) : State :=
  match s.ctx c with
  | none => s
  | some o =>
    (s.setCtx c none).setRing o.ring { s.ring o.ring with window := (s.ring o.ring).window.erase c }

/-- An operation reaches DONE with its result (R55): its completion joins the post queue of its ring's response ring,
or, where that ring is not ACTIVE, is discarded and its context freed at once (R145, R151). -/
def finish (c : CtxId) (st : Status) (pos aux : Nat) (s : State) : State :=
  match s.ctx c with
  | none => s
  | some o =>
    let t := s.setCtx c (some { o with phase := .done, stage := none, result := some ⟨st, pos, aux⟩ })
    if (s.respRing (s.ring o.ring).resp).state = .active then post (s.ring o.ring).resp (.completion c) t
    else freeCtx c t

/-- A command ring stops (R51), and its RING_STOPPED notice is raised (R52). -/
def stopRing (k : RingId) (why : StopReason) (s : State) : State :=
  let x := s.ring k
  if x.state = .running ∨ x.state = .paused then
    if x.notice.isSome then s.setRing k { x with state := .stopped, stop := some why, notice := some (why, x.take) }
    else if (s.respRing 0).state = .active then
      post 0 (.ringStopped k)
        (s.setRing k { x with state := .stopped, stop := some why, notice := some (why, x.take) })
    else s.setRing k { x with state := .stopped, stop := some why }
  else s

/-- A STORE_FAULT notice is raised (R23). -/
def raiseStoreFault (s : State) : State :=
  if s.store.faultPending = false ∧ (s.respRing 0).state = .active then
    post 0 .storeFault (s.setStore { s.store with faultPending := true })
  else s

/-- A RESPONSE_FAULTED notice for response ring `r` is raised (R152). -/
def raiseRespFaulted (r : RespId) (info : FaultInfo) (s : State) : State :=
  if (s.resp.faultSlots.get r).isSome then s.setFaultSlot r (some info)
  else if (s.respRing 0).state = .active then post 0 (.respFaulted r) (s.setFaultSlot r (some info))
  else s

/-- A LAP notice for line `n` is raised (R18). -/
def raiseLap (n : LineId) (s : State) : State :=
  let l := s.line n
  if l.lap.on ∧ l.lapPending = false ∧ (s.respRing l.lap.target).state = .active then
    post l.lap.target (.lap n) (s.setLine n { l with lapPending := true })
  else s

/-- An item is discarded from a post queue: a completion's context is freed, a notice's slot is cleared
(R143, R149, R150). -/
def discardItem (s : State) : PostItem → State
  | .completion c => freeCtx c s
  | .lap n => s.setLine n { s.line n with lapPending := false }
  | .ringStopped k => s.setRing k { s.ring k with notice := none }
  | .storeFault => s.setStore { s.store with faultPending := false }
  | .respFaulted r => s.setFaultSlot r none

/-- Response ring `r`'s post queue is discarded, head first. -/
def discardPosts (r : RespId) (s : State) : State :=
  let mine := s.resp.posts.filter fun x => x.ring = r
  mine.foldl (fun t x => discardItem t x.item) (s.setPosts (s.resp.posts.filter fun x => x.ring ≠ r))

/-! ### The write queue, pins and the drain of a line -/

/-- An operation becomes READY, after every operation that is READY already (R157). -/
def makeReady (c : CtxId) (s : State) : State :=
  (s.setPhase c .ready).setReady (s.sched.ready ++ [c])

/-- An operation leaves READY for another way than a grant (R15, R157). -/
def leaveReady (c : CtxId) (s : State) : State := s.setReady (s.sched.ready.filter (· ≠ c))

/-- The head of a line's write queue becomes its active writer (R9, R77). -/
def activate (n : LineId) (s : State) : State :=
  match (s.line n).writers with
  | [] => s
  | x :: _ =>
    if (s.line n).policy = .guarded ∧ guardPasses (s.line n) = false then s.setPhase x.ctx .guardWait
    else makeReady x.ctx s

/-- A writer joins a line's write queue (R8): behind others it is QUEUED, alone it becomes the active writer. -/
def joinQueue (n : LineId) (c : CtxId) (frames : Nat) (s : State) : State :=
  let l := s.line n
  let t := s.setLine n { l with writers := l.writers ++ [⟨c, frames⟩] }
  if l.writers.isEmpty then activate n t else t.setPhase c .queued

/-- The control context holds the SET_LINE of line `n` (R15). -/
def holdsSetLine (n : LineId) (s : State) : Bool :=
  match s.ctx 0 with
  | none => false
  | some o =>
    match o.body with
    | some (.setLine m ..) => decide (m = n) && decide (o.phase = .acting)
    | _ => false

/-- The control context holds the CLOSE_LINE of line `n` that is ACTING (R129). -/
def holdsCloseLine (n : LineId) (s : State) : Bool :=
  match s.ctx 0 with
  | none => false
  | some o => decide (o.body = some (.closeLine n)) && decide (o.phase = .acting)

/-- A held change to GUARDED takes hold and its SET_LINE completes OK with the line's W (R15, R134). -/
def applyHeld (n : LineId) (s : State) : State :=
  let l := s.line n
  if l.held then
    let t := s.setLine n { l with policy := .guarded, held := false }
    if holdsSetLine n s then finish 0 .ok l.w 0 t else t
  else s

/-- The active writer leaves the head of the queue, a held change of policy takes hold, and the next writer becomes
active (R10, R82, R87). -/
def leaveHead (n : LineId) (s : State) : State :=
  let l := s.line n
  activate n (applyHeld n (s.setLine n { l with writers := l.writers.tail }))

/-- The drain test of a line: a CLOSING line that is drained returns its extents, becomes FREE, and its CLOSE_LINE, in
the control context, completes OK with the final W and the count of operations it ended (R6, R132). -/
def drainTest (n : LineId) (s : State) : State :=
  let l := s.line n
  if l.state = .closing ∧ drained l = true then
    let t := (s.setStore { s.store with freeExts := returnExtents l.extents s.store.freeExts }).setLine n Line.freeLine
    if holdsCloseLine n s then finish 0 .ok l.w (((s.ctx 0).map Operation.ended).getD 0) t else t
  else s

/-- The guard check made again when a pin is removed (R13). -/
def guardRecheck (n : LineId) (s : State) : State :=
  let l := s.line n
  match l.writers with
  | [] => s
  | x :: _ =>
    if l.policy = .guarded ∧ s.inPhase x.ctx .guardWait = true ∧ guardPasses l = true then makeReady x.ctx s else s

/-- A read's pin is removed from a line, with the guard re-check and the drain test that follow (R11, R13, R6). -/
def removePin (n : LineId) (c : CtxId) (s : State) : State :=
  let l := s.line n
  drainTest n (guardRecheck n (s.setLine n { l with pins := l.pins.filter fun x => x.ctx ≠ c }))

/-- An operation leaves a line's park list, with its deadline (R17, R95). -/
def unpark (n : LineId) (c : CtxId) (s : State) : State :=
  let l := s.line n
  (s.setLine n { l with park := l.park.filter fun x => x.ctx ≠ c }).setParkTimer
    (s.parkTimer.filter fun x => x.1 ≠ c)

/-- An operation joins a line's park list, and the Park Timer takes its deadline (R16, R94, R95). -/
def parkOn (n : LineId) (c : CtxId) (windowEnd deadline : Nat) (s : State) : State :=
  let l := s.line n
  (s.setLine n { l with park := parkInsert ⟨c, windowEnd⟩ l.park }).setParkTimer (s.parkTimer ++ [(c, deadline)])

/-- The frames of a line's active writer once it has begun writing the store, that is while it is MOVING (R104). -/
def movingFrames (n : LineId) (s : State) : Nat :=
  match (s.line n).writers with
  | [] => 0
  | x :: _ => if s.inPhase x.ctx .moving then x.frames else 0

/-! ### The host link -/

/-- Whether the Host Port may issue requests: the link is up and the host has not withdrawn permission (R161). -/
def canIssue (s : State) : Bool := s.host.linkUp && s.host.permitted

/-- The writes a waiter brings, if it joins the queue by itself (R161). -/
def waiterWrites : Waiter → Option (List HostWrite)
  | .data _ ws => some ws
  | .message x => some [x]
  | .item => none
  | .report _ => none

/-- Places freed in the host write queue go to the writes that have waited longest (R161). -/
def letIn : List HostWrite → List Waiter → List HostWrite × List Waiter
  | q, [] => (q, [])
  | q, x :: xs =>
    match waiterWrites x with
    | none => (q, x :: xs)
    | some ws => if q.length + ws.length ≤ Config.writeQueue then letIn (q ++ ws) xs else (q, x :: xs)

/-- Writes that join the host write queue at once, or wait for a place behind those already waiting (R161). -/
def handOver (x : Waiter) (s : State) : State :=
  let r := letIn s.host.writeQ (s.host.waiters ++ [x])
  s.setHost { s.host with writeQ := r.1, waiters := r.2 }

/-- Whether a step that hands over its writes itself may do so now: there is room, and no other requester has waited
longer (R161). -/
def hasPlace (x : Waiter) (count : Nat) (s : State) : Bool :=
  decide (s.host.writeQ.length + count ≤ Config.writeQueue) &&
    (s.host.waiters.isEmpty || s.host.waiters.head? == some x)

/-- The writes of such a step join the queue; its own waiting place, if it had one, is given up. -/
def takePlace (x : Waiter) (ws : List HostWrite) (s : State) : State :=
  let r := letIn (s.host.writeQ ++ ws) (s.host.waiters.filter (· ≠ x))
  s.setHost { s.host with writeQ := r.1, waiters := r.2 }

/-- Such a step, finding no place, waits for one (R161). -/
def awaitPlace (x : Waiter) (s : State) : State :=
  if x ∈ s.host.waiters then s else s.setHost { s.host with waiters := s.host.waiters ++ [x] }

/-- Such a step, having nothing left to write, gives up the place it waits for. -/
def giveUpPlace (x : Waiter) (s : State) : State :=
  let r := letIn s.host.writeQ (s.host.waiters.filter (· ≠ x))
  s.setHost { s.host with writeQ := r.1, waiters := r.2 }

/-- A message interrupt asked of the Host Port (R162). It carries its vector's address and data as they stand when it is
handed over (DESIGN CHOICE, log 46). -/
def sendMessage (r : RespId) (s : State) : State :=
  let v := s.host.vectors.get r
  if s.host.msgEnable = false then s
  else if v.masked then s.setHost { s.host with vectors := s.host.vectors.set r { v with pending := true } }
  else handOver (.message ⟨.message r, v.addr, leBytes 4 v.data.toNat⟩) s

/-- A response ring sends its interrupt: one message with its number as vector, and its unsignalled count becomes 0
(R154). -/
def sendInterrupt (r : RespId) (s : State) : State :=
  sendMessage r (s.setRespRing r { s.respRing r with unsignalled := 0, oldest := none })

/-- A host read's requests on the link (R159, R179). -/
def readRequests (x : HostRead) : List LinkRequest := (splitAddr x.addr x.len).map fun p => .read p.1 p.2

/-- A host read is asked for; it is issued at once, or waits while requests are not permitted (R160, R161). A link that
accepts no more requests for the moment holds host writes only (DESIGN CHOICE, log 47). -/
def askRead (who : Requester) (addr : HostAddr) (len : Nat) (s : State) : State :=
  let x : HostRead := ⟨s.host.nextRead, who, addr, len, if canIssue s then some s.now else none⟩
  let t := s.setHost { s.host with reads := s.host.reads ++ [x], nextRead := s.host.nextRead + 1 }
  if canIssue s then { t with link := t.link ++ readRequests x } else t

/-- Reads that waited for permission are issued in order, and their timeouts count from now (R160, R161); among them
the reads of a DEPOSIT another read of which has failed meanwhile (DESIGN CHOICE, log 45). They go ahead of the writes
that the host write queue holds (DESIGN CHOICE, log 48). -/
def issueReads (s : State) : State :=
  let held := s.host.reads.filter fun x => x.issued.isNone
  { (s.setHost { s.host with reads := s.host.reads.map fun x => { x with issued := some (x.issued.getD s.now) } }) with
    link := s.link ++ held.flatMap readRequests }

/-! ### Quiescence -/

/-- The posted slots a ring has not had taken (R44). -/
def postedSlots (x : CmdRing) : Nat := (x.post + x.size - x.take) % x.size

/-- The part is idle (R175). -/
def idle (s : State) : Bool :=
  decide (s.host.enable = .on) && s.sched.ctxs.all Option.isNone && s.fetcher.fetch.isNone && s.resp.posts.isEmpty
    && s.fetcher.rings.all fun x => decide (x.state ≠ .running) || decide (x.post = x.take)

/-- The recorded post index of each command ring (R175). -/
def postIndices (s : State) : List Nat := s.fetcher.rings.rows.map CmdRing.post

/-- The quiescence state after an event: an AWAKE part that is idle becomes IDLING when IDLE_DELAY is not 0, and an
IDLING part that is no longer idle becomes AWAKE (R175). -/
def settleIdle (s : State) : State :=
  match s.host.quiesce with
  | .awake =>
    if idle s = true ∧ s.host.idleDelay ≠ 0 then
      s.setHost { s.host with quiesce := .idling (s.now + s.host.idleDelay.toNat) (postIndices s) }
    else s
  | .idling .. => if idle s then s else s.setHost { s.host with quiesce := .awake }
  | .quiet _ => s

/-- The store begins its exit from self-refresh (R39). -/
def beginExit (s : State) : State :=
  if s.store.power = .selfRefresh then s.setStore { s.store with power := .exiting } else s

/-- A QUIET part becomes AWAKE and the store begins its exit from self-refresh (R177). -/
def quietWake (s : State) : State :=
  match s.host.quiesce with
  | .quiet _ => beginExit (s.setHost { s.host with quiesce := .awake })
  | .awake => s
  | .idling .. => s

/-- A command has had its effect; the quiescence state follows within the same event (R175). -/
def took (s : State) : Answer := .next (settleIdle s)

/-- A command whose conditions the state does not meet changes nothing (log 1). -/
def notDue (s : State) : Answer := .next s

end Sys2Proof.Machine
end

