-- ==== Sys2Proof/Machine/Flags.lean ====
section
/-! DEFINITION. The codes and bit fields software sees: STATUS and the reads of the register window (R73, R163), the
codes and bytes of items (R70, R71) and of reports (R72). -/

namespace Sys2Proof.Machine

/-- The status codes of R70. -/
def statusCode : Status → Nat
  | .ok => 0
  | .overtaken => 1
  | .gone => 2
  | .notReady => 3
  | .expired => 4
  | .aborted => 5
  | .noLine => 6
  | .badRecord => 7
  | .tooLong => 8
  | .badShape => 9
  | .noSpace => 10
  | .lineBusy => 11
  | .positionLimit => 12
  | .hostFault => 13
  | .dataError => 14
  | .storeFault => 15
  | .wrongRing => 16
  | .ringBusy => 17

/-- The stop reason codes of R71. -/
def stopCode : StopReason → Nat
  | .badPost => 1
  | .fetchFault => 2
  | .badSlots => 3
  | .responseFault => 4

/-- The store state codes of R72 and R73. -/
def storeCode : StoreState → Nat
  | .calibrating => 0
  | .ready => 1
  | .fault => 2

/-- The command ring state codes of R73. -/
def ringCode : RingState → Nat
  | .disabled => 0
  | .running => 1
  | .paused => 2
  | .stopped => 3
  | .draining => 4

/-- The line state codes of R72. -/
def lineCode : LineState → Nat
  | .free => 0
  | .opened => 1
  | .closing => 2

/-- The reset cause codes of R73. -/
def causeCode : ResetCause → Nat
  | .powerOn => 0
  | .pin => 1
  | .link => 2
  | .function => 3

/-- Whether the part is QUIET (R175). -/
def isQuiet (s : State) : Bool :=
  match s.host.quiesce with
  | .quiet _ => true
  | .awake => false
  | .idling .. => false

/-- The number of lines in state OPEN (R73, lines retained). -/
def linesRetained (s : State) : Nat := s.lines.rows.countP fun l => decide (l.state = .opened)

/-- STATUS, each field as the state it reports stands (R73). -/
def statusWord (s : State) : Word32 :=
  BitVec.ofNat 32
    (boolByte (decide (s.host.enable = .on)) + 2 * boolByte (isQuiet s) + 4 * storeCode s.store.state
      + 16 * ringCode (s.ring 0).state + 128 * boolByte (decide ((s.respRing 0).state = .faulted))
      + 256 * boolByte s.host.configError + 4096 * causeCode s.host.resetCause + 65536 * linesRetained s)

/-- The content of the register at a word offset of the window (R73, R163). A 32-bit read at an offset that is no multiple
of 4 answers 0 (DESIGN CHOICE, log 34). -/
def regRead (s : State) (offset : Nat) : Word32 :=
  if offset = 0x00 then Config.ident
  else if offset = 0x04 then statusWord s
  else if offset = 0x08 then BitVec.ofNat 32 (boolByte (decide (s.host.enable ≠ .off)))
  else if offset = 0x0C then s.host.idleDelay.setWidth 32
  else if offset = 0x10 then s.host.ctrlBaseLo
  else if offset = 0x14 then s.host.ctrlBaseHi
  else if offset = 0x18 then s.host.ctrlSize.setWidth 32
  else if offset = 0x20 then s.host.resp0BaseLo
  else if offset = 0x24 then s.host.resp0BaseHi
  else if offset = 0x28 then s.host.resp0Size.setWidth 32
  else if offset = 0x2C then s.host.resp0Mod
  else if 0x40 ≤ offset ∧ offset < 0x80 ∧ offset % 4 = 0 then
    BitVec.ofNat 32 (s.ring (Fin.ofNat 16 ((offset - 0x40) / 4))).post
  else if 0x80 ≤ offset ∧ offset < 0x90 ∧ offset % 4 = 0 then
    BitVec.ofNat 32 (s.respRing (Fin.ofNat 4 ((offset - 0x80) / 4))).release
  else 0

/-- A read narrower than 32 bits returns the addressed bytes of the register's content (R163), those beyond its last byte
left out (DESIGN CHOICE, log 34). -/
def regReadBytes (s : State) (offset len : Nat) : List Byte :=
  ((leBytes 4 (regRead s (offset - offset % 4)).toNat).drop (offset % 4)).take len

/-- Byte 3 of an item: phase in bit 7, type in bit 6, ring number in bits 0 to 3 (R70, R71). -/
def itemByte3 (phase notice : Bool) (ring : Nat) : Nat := 128 * boolByte phase + 64 * boolByte notice + ring

/-- A completion item (R70). -/
def completionBytes (phase : Bool) (tag : BitVec 16) (ring take : Nat) (r : Settled) : List Byte :=
  leBytes 2 tag.toNat ++ leBytes 1 (statusCode r.status) ++ leBytes 1 (itemByte3 phase false ring) ++ leBytes 2 take
    ++ leBytes 6 r.pos ++ leBytes 4 r.aux

/-- A notice item (R71). -/
def noticeBytes (phase : Bool) (kind subject reason valueA valueB : Nat) : List Byte :=
  leBytes 1 kind ++ leBytes 1 subject ++ leBytes 1 reason ++ leBytes 1 (itemByte3 phase true 0) ++ leBytes 6 valueA
    ++ leBytes 6 valueB

/-- The bytes of an item, its fields completed from the state at the moment of writing (R70, R71, R146). -/
def itemBytes (s : State) (phase : Bool) : PostItem → List Byte
  | .completion c =>
    match s.ctx c with
    | none => completionBytes phase 0 0 0 ⟨.ok, 0, 0⟩
    | some o => completionBytes phase o.tag o.ring.val (s.ring o.ring).take (o.result.getD ⟨.ok, 0, 0⟩)
  | .lap n => noticeBytes phase 1 n.val 0 (s.line n).w (lapCount (s.line n))
  | .ringStopped k =>
    match (s.ring k).notice with
    | none => noticeBytes phase 2 k.val 0 0 0
    | some (why, take) => noticeBytes phase 2 k.val (stopCode why) take 0
  | .storeFault => noticeBytes phase 3 0 (storeCode s.store.state) 0 0
  | .respFaulted r =>
    match s.resp.faultSlots.get r with
    | none => noticeBytes phase 4 r.val 0 0 0
    | some x => noticeBytes phase 4 r.val x.cause x.value x.count

/-- The extents of a report: 8 entries of start block and block count, zeros beyond the count (R72). -/
def extentBytes (es : List Extent) : List Byte :=
  let bs := es.flatMap fun e => leBytes 4 e.start ++ leBytes 4 e.count
  bs ++ List.replicate (64 - bs.length) 0

/-- The line report of 128 bytes (R72, R136). -/
def lineReport (n : LineId) (l : Line) : List Byte :=
  leBytes 1 (lineCode l.state) ++ leBytes 1 l.channels ++ leBytes 1 (policyByte l.policy) ++ leBytes 1 (boolByte l.lap.on)
    ++ leBytes 1 l.lap.target.val ++ leBytes 1 (boolByte l.lapPending) ++ leBytes 1 l.extents.length ++ leBytes 1 n.val
    ++ leBytes 4 l.cap ++ leBytes 2 l.park.length ++ leBytes 2 l.writers.length ++ leBytes 8 l.w ++ leBytes 8 l.f
    ++ leBytes 8 (oldest l) ++ leBytes 8 (lapCount l) ++ List.replicate 16 0 ++ extentBytes l.extents

/-- The largest block count of the free extent table, 0 when it is empty (R29). -/
def largestFree (es : List Extent) : Nat := (es.map Extent.count).foldl max 0

/-- The store report of 64 bytes (R29, R72, R137). -/
def storeReport (c : StoreController) : List Byte :=
  leBytes 1 (storeCode c.state) ++ leBytes 3 0 ++ leBytes 4 (blocksOf c.freeExts) ++ leBytes 4 c.freeExts.length
    ++ leBytes 4 (largestFree c.freeExts) ++ leBytes 4 c.corrected ++ leBytes 4 c.forced ++ List.replicate 40 0

end Sys2Proof.Machine
end

