-- ==== Sys2Proof/Machine/Movers.lean ====
section
/-! DEFINITION. The movers and the Mix Unit (R120 to R122, R156 to R159): what a mover asks of the host and of the
store next, what it does with the bytes a store burst brings, and how its output is cut into host writes. -/

namespace Sys2Proof.Machine

/-- A free mover bound to an operation, with nothing done (R156). -/
def freshMover (c : CtxId) : Mover :=
  { ctx := c, runs := [], written := 0, hostDone := 0, arrived := [], out := [], firstBad := none, overtaken := none,
    clips := 0, failedAt := none, report := none }

/-- The mover has a store access outstanding, waiting or in progress (R32, R156). -/
def accessOut (m : MoverId) (s : State) : Bool :=
  s.store.waiting.any (fun a => a.mover == some m) ||
    match s.store.busy with
    | some (.access a) => a.mover == some m
    | some .refresh => false
    | none => false

/-- A read was asked for by mover `m` (R156). -/
def askedBy (m : MoverId) (x : HostRead) : Bool :=
  match x.requester with
  | .mover k _ => decide (k = m)
  | .fetch => false
  | .nobody => false

/-- The host reads outstanding for a mover (R156). -/
def readsOut (m : MoverId) (s : State) : Nat := (s.host.reads.filter (askedBy m)).length

/-- A host write of the mover waits for a place in the host write queue (R161). -/
def writesWaiting (m : MoverId) (s : State) : Bool :=
  s.host.waiters.any fun x =>
    match x with
    | .data k _ => decide (k = m)
    | .message _ => false
    | .item => false
    | .report _ => false

/-- The bytes of a deposit's buffer that have arrived without a gap, from transfer `x` on. -/
def arrivedFrom (a : List (Nat × List Byte)) : Nat → Nat → List Byte
  | 0, _ => []
  | fuel + 1, x =>
    match a.find? fun y => y.1 == x with
    | none => []
    | some y => y.2 ++ arrivedFrom a fuel (x + 1)

/-- The bytes of a writer's run from byte `j` on, once every one of them is at hand (R79, R80, R122). -/
def writerBytes (b : Body) (mv : Mover) (j len : Nat) : Option (List Byte) :=
  match b with
  | .deposit .. =>
    let d := arrivedFrom mv.arrived mv.arrived.length 0
    if j + len ≤ d.length then some ((d.drop j).take len) else none
  | .skip .. => some (List.replicate len 0)
  | .mix .. => if j + len ≤ mv.out.length then some ((mv.out.drop j).take len) else none
  | _ => none

/-- The next write burst of the writer a mover carries, if its bytes are at hand (R31, R79). -/
def nextWrite (m : MoverId) (mv : Mover) (b : Body) (l : Line) : Option Access :=
  let total := framesOf b * frameSize l
  if mv.written < total then
    let p := burstAt l l.w total mv.written
    (writerBytes b mv mv.written p.2).map fun bs => ⟨some m, 0, p.1, p.2, some bs⟩
  else none

/-- The bytes of a run (R31). -/
def runBytes (s : State) (r : Run) : Nat := r.frames * frameSize (s.line r.line)

/-- The run least far on among those not yet read whole, the first of equals, with its number (log 18). -/
def leastRun (s : State) : List Run → Nat → Option (Nat × Run)
  | [], _ => none
  | r :: rs, i =>
    let later := leastRun s rs (i + 1)
    if runBytes s r ≤ r.data.length then later
    else match later with
      | none => some (i, r)
      | some x => if r.data.length ≤ x.2.data.length then some (i, r) else some x

/-- The next read burst of a mover (R31, R101, R120). -/
def nextRead (m : MoverId) (mv : Mover) (s : State) : Option Access :=
  (leastRun s mv.runs 0).map fun x =>
    let p := burstAt (s.line x.2.line) x.2.start (runBytes s x.2) x.2.data.length
    ⟨some m, x.1, p.1, p.2, none⟩

/-- The next store access of a mover, at most one being outstanding (R32, R156). A mover whose host write waits for a
place asks for none (R161), nor does a deposit one of whose reads has failed (R86), nor a MIX whose end of moving has
begun (R123). -/
def nextAccess (m : MoverId) (s : State) : Option Access :=
  match s.mover m with
  | none => none
  | some mv =>
    match s.ctx mv.ctx with
    | none => none
    | some o =>
      if o.phase ≠ .moving ∨ o.stage.isSome = true ∨ accessOut m s = true ∨ writesWaiting m s = true ∨
          mv.failedAt.isSome = true then none
      else match o.body with
        | none => none
        | some b =>
          match (destOf b).bind fun n => nextWrite m mv b (s.line n) with
          | some a => some a
          | none => nextRead m mv s

/-- A mover asks the Store Controller for its next access (R32). -/
def askStore (m : MoverId) (s : State) : State :=
  match nextAccess m s with
  | none => s
  | some a => s.setStore { s.store with waiting := s.store.waiting ++ [a] }

/-- A deposit's mover asks for its next host reads, in order, up to 4 outstanding (R159). -/
def askTransfers : Nat → MoverId → State → State
  | 0, _, s => s
  | fuel + 1, m, s =>
    match s.mover m with
    | none => s
    | some mv =>
      match (s.ctx mv.ctx).bind Operation.body with
      | some (.deposit n addr frames) =>
        let total := frames * frameSize (s.line n)
        if s.inPhase mv.ctx .moving = true ∧ mv.failedAt = none ∧ readsOut m s < Config.maxReads ∧ mv.hostDone < total then
          let x := mv.hostDone / Config.transferBytes
          askTransfers fuel m
            (askRead (.mover m x) (transferAddr addr x) (transferLen total x)
              (s.setMover m (some { mv with hostDone := mv.hostDone + transferLen total x })))
        else s
      | _ => s

/-- A mover asks for whatever it can ask for next (R159, R32). -/
def pump (m : MoverId) (s : State) : State := askStore m (askTransfers Config.maxReads m s)

/-- Every mover does (log 25). -/
def pumpAll (s : State) : State := pump 3 (pump 2 (pump 1 (pump 0 s)))

/-! ### Samples -/

/-- The samples of the selected channels of a run of frames, in order (R102). -/
def selectSamples (channels : Nat) (selected : List Nat) (xs : List Int) : List Int :=
  (xs.zipIdx.filter fun x => selected.contains (x.2 % channels)).map Prod.fst

/-- A TAP's output: the selected channels of each frame, packed (R102). -/
def tapOutput (l : Line) (mask : BitVec 16) (data : List Byte) : List Byte :=
  (selectSamples l.channels (selectedChannels l mask) (samples data)).flatMap sampleBytes

/-- A sum of samples times gains divided by 16,384, to the nearest whole number, halves away from zero (R121). -/
def roundGain (x : Int) : Int :=
  if 0 ≤ x then (x + 8192) / 16384 else -((-x + 8192) / 16384)

/-- The limits of a sample (R121). -/
def clampSample (x : Int) : Int := max (-2147483648) (min 2147483647 x)

/-- The sample-by-sample sum of two lists, as long as the shorter. -/
def addSamples : List Int → List Int → List Int
  | x :: xs, y :: ys => (x + y) :: addSamples xs ys
  | _, _ => []

/-- The exact sums of sample times gain over all taps, as far as every tap has been read (R121). -/
def mixSums : List (Int × List Int) → List Int
  | [] => []
  | [(g, xs)] => xs.map (· * g)
  | (g, xs) :: rest => addSamples (xs.map (· * g)) (mixSums rest)

/-- The Mix Unit's output samples and how many of them were limited (R121). -/
def mixOutput (taps : List (Int × List Int)) : List Int × Nat :=
  let rounded := (mixSums taps).map roundGain
  (rounded.map clampSample, rounded.countP fun x => clampSample x ≠ x)

/-- The bytes of a read's output buffer (R102, R122). -/
def outputBytes (s : State) : Body → Nat
  | .tap n _ frames _ _ _ mask => 4 * (selectedChannels (s.line n) mask).length * frames
  | .mix _ _ frames _ taps =>
    match taps with
    | [] => 0
    | t :: _ => frames * frameSize (s.line t.line)
  | _ => 0

/-- The output and clip count of a read's mover after a burst, from all bytes delivered so far (R102, R121). -/
def computeOutput (s : State) (b : Body) (mv : Mover) : Mover :=
  match b with
  | .tap n _ _ _ _ _ mask =>
    { mv with out := tapOutput (s.line n) mask (mv.runs.flatMap Run.data) }
  | .mix _ _ _ _ taps =>
    let r := mixOutput ((taps.zip mv.runs).map fun x => (x.1.gain.toInt, samples x.2.data))
    { mv with out := r.1.flatMap sampleBytes, clips := r.2 }
  | _ => mv

/-- The transfers of an output buffer whose bytes are all computed and not yet handed over (R103, R159). -/
def readyTransfers (total : Nat) (mv : Mover) : List Nat :=
  let full := if mv.out.length = total then (total + (Config.transferBytes - 1)) / Config.transferBytes
    else mv.out.length / Config.transferBytes
  let first := (mv.hostDone + (Config.transferBytes - 1)) / Config.transferBytes
  List.range' first (full - first)

/-- A mover hands over each host write whose samples are all computed, in ascending address order (R103, R122). -/
def handTransfers (m : MoverId) (b : Body) (s : State) : State :=
  match s.mover m with
  | none => s
  | some mv =>
    let total := outputBytes s b
    let xs := readyTransfers total mv
    let t := xs.foldl (fun t x =>
      handOver (.data m (splitWrite .data (transferAddr (bufferOf b) x)
        ((mv.out.drop (Config.transferBytes * x)).take Config.transferBytes))) t) s
    t.setMover m (some { mv with hostDone := min total (mv.hostDone + Config.transferBytes * xs.length) })

/-- The lower of two reported positions; of two equal ones, that of the lower-numbered tap (R120). -/
def lowerBad : Option (Nat × Nat) → Option (Nat × Nat) → Option (Nat × Nat)
  | none, y => y
  | x, none => x
  | some x, some y => if x.1 < y.1 ∨ (x.1 = y.1 ∧ x.2 ≤ y.2) then some x else some y

/-- The position an uncorrectable word is reported with, for a run of tap number `tap` (R34, R120). -/
def badReport (s : State) (r : Run) (tap word : Nat) : Option (Nat × Nat) :=
  (lowestInWord (s.line r.line) r.start r.frames word).map fun q => (q, tap)

/-- A read burst's bytes reach the mover's run; uncorrectable words are reported (R34, R101, R120); what can be
computed is computed, and what is complete is handed over. -/
def deliver (m : MoverId) (run : Nat) (bytes : List Byte) (bad : List Nat) (s : State) : State :=
  match s.mover m with
  | none => s
  | some mv =>
    match mv.runs[run]?, (s.ctx mv.ctx).bind Operation.body with
    | some r, some b =>
      let firstBad := bad.foldl (fun x w => lowerBad x (badReport s r (run + 1) w)) mv.firstBad
      let mv := { mv with runs := mv.runs.set run { r with data := r.data ++ bytes }, firstBad := firstBad }
      let t := s.setMover m (some (computeOutput s b mv))
      pump m (if (destOf b).isSome then t else handTransfers m b t)
    | _, _ => s

/-- A write burst of a mover has been stored (R79, R122). -/
def stored (m : MoverId) (len : Nat) (s : State) : State :=
  match s.mover m with
  | none => s
  | some mv => pump m (s.setMover m (some { mv with written := mv.written + len }))

/-- A transfer of a deposit's buffer has arrived; after a failed read its bytes are dropped (R86). -/
def transferArrived (m : MoverId) (x : Nat) (bytes : List Byte) (s : State) : State :=
  match s.mover m with
  | none => s
  | some mv =>
    if mv.failedAt.isSome then s
    else pump m (s.setMover m (some { mv with arrived := mv.arrived ++ [(x, bytes)] }))

/-- A transfer of a deposit's buffer has failed; the lowest failing address is kept (R86, R156). -/
def transferFailed (m : MoverId) (addr : HostAddr) (s : State) : State :=
  match s.mover m with
  | none => s
  | some mv =>
    let low := match mv.failedAt with
      | none => addr
      | some a => if a.toNat ≤ addr.toNat then a else addr
    s.setMover m (some { mv with failedAt := some low })

/-- The mover bound to a context. -/
def moverOf (c : CtxId) (s : State) : Option MoverId :=
  (List.finRange 4).find? fun m =>
    match s.mover m with
    | none => false
    | some mv => decide (mv.ctx = c)

/-- Every run of the mover has been read whole (R101, R120). -/
def runsRead (s : State) (mv : Mover) : Bool := mv.runs.all fun r => decide (runBytes s r ≤ r.data.length)

/-- The mover has nothing outstanding at the store, at the host or at the host write queue. -/
def settledMover (m : MoverId) (s : State) : Bool :=
  !accessOut m s && !writesWaiting m s && readsOut m s == 0

end Sys2Proof.Machine
end

