-- ==== Sys2Proof/Machine/Start.lean ====
section
/-! DEFINITION. The start rules (R56): which WAITING record of a ring may start. -/

namespace Sys2Proof.Machine

/-- The contexts of the records taken from a ring before the one in context `c`, and not yet freed (R54, R56). -/
def takenBefore (k : RingId) (c : CtxId) (s : State) : List CtxId := (s.ring k).window.takeWhile (· ≠ c)

/-- The operation in context `d` is an uncommitted writer of one of the lines: from its start until it is DONE
(R56, condition 3). -/
def uncommittedWriter (ns : List LineId) (s : State) (d : CtxId) : Bool :=
  match s.ctx d with
  | none => false
  | some o =>
    decide (o.phase ≠ .waiting) && decide (o.phase ≠ .done)
      && match o.body.bind destOf with
        | none => false
        | some n => decide (n ∈ ns)

/-- The three conditions of R56 for the record in context `c`, every earlier record of the ring having started. -/
def mayStart (k : RingId) (c : CtxId) (fence : Bool) (b : Body) (s : State) : Bool :=
  (!fence || (takenBefore k c s).isEmpty) && !(takenBefore k c s).any (uncommittedWriter (namedLines b) s)

/-- The record of ring `k` that starts next: the front of its WAITING records, once R56 allows it. -/
def nextStart (k : RingId) (s : State) : Option (CtxId × Body) :=
  match (s.ring k).window.find? fun c => s.inPhase c .waiting with
  | none => none
  | some c =>
    match s.ctx c with
    | none => none
    | some o =>
      match o.body with
      | none => none
      | some b => if mayStart k c o.fence b s then some (c, b) else none

end Sys2Proof.Machine
end

