-- ==== Sys2Proof/Machine/Deposits.lean ====
section
/-! DEFINITION. Deposits: the start of DEPOSIT and SKIP, the commit with its walk and lap check, the abandoned write
(R74 to R89). -/

namespace Sys2Proof.Machine

/-- The position at which a writer that joins the queue now will begin if every writer ahead of it commits (R75). -/
def joinPosition (l : Line) : Nat := l.w + queuedFrames l

/-- The start of a DEPOSIT or SKIP of `frames` frames on line `n` (R75). -/
def startWriter (n : LineId) (c : CtxId) (frames : Nat) (s : State) : State :=
  let l := s.line n
  if l.state ≠ .opened then finish c .noLine 0 0 s
  else if l.cap < frames then finish c .tooLong l.w l.cap s
  else if Config.maxPosition < joinPosition l + frames then finish c .positionLimit (joinPosition l) frames s
  else joinQueue n c frames s

/-- DEPOSIT (R75): the DEPOSIT first among the ring's WAITING records starts. -/
def execDeposit (k : RingId) (s : State) : Answer :=
  match nextStart k s with
  | some (c, .deposit n _ frames) => took (startWriter n c frames s)
  | _ => notDue s

/-- SKIP (R75, R80). -/
def execSkip (k : RingId) (s : State) : Answer :=
  match nextStart k s with
  | some (c, .skip n frames) => took (startWriter n c frames s)
  | _ => notDue s

/-! ### The commit -/

/-- The wake of a read a commit walk has taken from line `n`'s park list (R97, R116): a TAP whose window start lies
below O ends GONE, else it becomes READY; a MIX begins a fresh placement pass. -/
def wakeRead (n : LineId) (c : CtxId) (s : State) : State :=
  match s.ctx c with
  | none => s
  | some o =>
    match o.body with
    | some (.tap ..) =>
      if o.starts.headD 0 < oldest (s.line n) then finish c .gone (oldest (s.line n)) 2 s else makeReady c s
    | some (.mix ..) => s.setCtx c (some { o with phase := .passing, stage := some (.wake 0) })
    | _ => s

/-- The commit walk (R83): entries from the front of the park list whose window end is at or below W. -/
def commitWalk (n : LineId) (s : State) : State :=
  ((s.line n).park.takeWhile fun x => decide (x.windowEnd ≤ (s.line n).w)).foldl
    (fun t x => wakeRead n x.ctx (unpark n x.ctx t)) s

/-- The commit of line `n`'s active writer, in context `c`, one event at the line (R82). -/
def commitAt (n : LineId) (c : CtxId) (aux : Nat) (s : State) : State :=
  let l := s.line n
  let w := l.w + activeFrames l
  let s1 := leaveHead n (s.setLine n { l with w := w })
  let s2 := commitWalk n s1
  let s3 := if l.state = .opened ∧ lapCount l < w / l.cap then raiseLap n s2 else s2
  drainTest n (finish c .ok w aux s3)

/-- The end without commit of line `n`'s active writer after it has become MOVING (R87). -/
def abandonAt (n : LineId) (c : CtxId) (status : Status) (pos aux : Nat) (s : State) : State :=
  let l := s.line n
  let s1 := leaveHead n (s.setLine n { l with f := abandonedFloor l (activeFrames l) })
  finish c status pos aux (drainTest n s1)

/-- The operation in context `c` is line `n`'s active writer (R9). -/
def isActive (n : LineId) (c : CtxId) (s : State) : Bool := ((s.line n).writers.head?.map Writer.ctx) == some c

/-- The writer a mover carries: its mover, operation, record and line, if it is MOVING as its line's active writer. -/
def movingWriter (m : MoverId) (s : State) : Option (Mover × Operation × Body × LineId) :=
  match s.mover m with
  | none => none
  | some mv =>
    match s.ctx mv.ctx with
    | none => none
    | some o =>
      match o.body with
      | none => none
      | some b =>
        match destOf b with
        | none => none
        | some n => if o.phase = .moving ∧ isActive n mv.ctx s = true then some (mv, o, b, n) else none

/-- A writer that is no MIX has completed its run: every read has come, every store write is done (R82). -/
def runStored (m : MoverId) (mv : Mover) (b : Body) (n : LineId) (s : State) : Bool :=
  mv.failedAt.isNone && settledMover m s && decide (mv.written = framesOf b * frameSize (s.line n))

/-- COMMIT (R82): for a MIX, once its end has been taken at every source line with status OK (R123). -/
def execCommit (m : MoverId) (s : State) : Answer :=
  match movingWriter m s with
  | none => notDue s
  | some (mv, o, b, n) =>
    match o.stage with
    | some (.destination .ok _ aux) => took (commitAt n mv.ctx aux (s.setMover m none))
    | some _ => notDue s
    | none =>
      match b with
      | .mix .. => notDue s
      | _ => if runStored m mv b n s then took (commitAt n mv.ctx (framesOf b) (s.setMover m none)) else notDue s

/-- WRITER_ABANDONED (R86, R87): a DEPOSIT a read of which has failed, nothing of it being outstanding any more, ends
HOST_FAULT; a MIX decided OVERTAKEN or DATA_ERROR ends so (R123). -/
def execWriterAbandoned (m : MoverId) (s : State) : Answer :=
  match movingWriter m s with
  | none => notDue s
  | some (mv, o, _, n) =>
    match o.stage with
    | some (.destination .ok _ _) => notDue s
    | some (.destination status pos aux) => took (abandonAt n mv.ctx status pos aux (s.setMover m none))
    | some _ => notDue s
    | none =>
      match mv.failedAt with
      | none => notDue s
      | some addr =>
        if settledMover m s then
          took (abandonAt n mv.ctx .hostFault (s.line n).w (addr.toNat % 2 ^ 32) (s.setMover m none))
        else notDue s

end Sys2Proof.Machine
end

