-- ==== Sys2Proof/Machine/Fetch.lean ====
section
/-! DEFINITION. Fetching and taking records (R44 to R50, R178), and the ends of host reads (R160). -/

namespace Sys2Proof.Machine

/-- The contexts a ring holds: its window and the one reserved for a fetch of it (R54). -/
def heldContexts (k : RingId) (s : State) : Nat :=
  (s.ring k).window.length + (match s.fetcher.fetch with | some f => if f.ring = k then 1 else 0 | none => 0)

/-- A context that is free: the control context for ring 0, the lowest-numbered free work context for rings 1 to 15
(R53; log 10). -/
def freeContext (k : RingId) (s : State) : Option CtxId :=
  if k = 0 then (if (s.ctx 0).isNone then some 0 else none)
  else (List.finRange 257).find? fun c => decide (c ≠ 0) && (s.ctx c).isNone

/-- A ring is eligible for a fetch grant (R45). -/
def eligible (s : State) (k : RingId) : Bool :=
  decide ((s.ring k).state = .running) && decide (1 ≤ postedSlots (s.ring k)) && (s.ring k).held.isNone
    && decide (heldContexts k s < (s.ring k).windowSize) && (freeContext k s).isSome && s.fetcher.fetch.isNone
    && decide (s.host.enable = .on) && !isQuiet s && decide (s.store.power ≠ .exiting)

/-- The work rings counted upward from the ring last granted, wrapping from 15 to 1 (R46). -/
def ringsAfter (last : Nat) : List RingId := (List.range 15).map fun i => Fin.ofNat 16 ((last + i) % 15 + 1)

/-- The ring a level's search grants (R46). -/
def grantAtLevel (s : State) (level : Fin 4) : Option RingId :=
  (ringsAfter (s.fetcher.lastGrant.get level)).find? fun k =>
    decide (k ≠ 0) && decide ((s.ring k).prio = level.val) && eligible s k

/-- The ring the fetch arbiter grants, with the level of a work ring (R46). -/
def grantedRing (s : State) : Option (RingId × Option (Fin 4)) :=
  if eligible s 0 then some (0, none)
  else ([3, 2, 1, 0] : List (Fin 4)).findSome? fun level => (grantAtLevel s level).map fun k => (k, some level)

/-- The host address of entry `i` of a ring (R41), modulo 2^64 (DESIGN CHOICE, log 44). -/
def slotAddr (x : CmdRing) (i : Nat) : HostAddr := x.base + BitVec.ofNat 64 (64 * i)

/-- FETCH_GRANT (R46, R47): the granted ring's level remembers it, a context is reserved, and the slot at the take
index is read. -/
def execFetchGrant (s : State) : Answer :=
  match grantedRing s with
  | none => notDue s
  | some (k, level) =>
    match freeContext k s with
    | none => notDue s
    | some c =>
      let last := match level with
        | none => s.fetcher.lastGrant
        | some p => s.fetcher.lastGrant.set p k.val
      let t : State := { s with fetcher := { s.fetcher with lastGrant := last, fetch := some ⟨k, c, none⟩ } }
      took (askRead .fetch (slotAddr (s.ring k) (s.ring k).take) 64 t)

/-- The context of a taken record: WAITING, or to be settled if decode failed (R50, R54). -/
def newOperation (k : RingId) (take slots : Nat) (bytes : List Byte) : Operation :=
  let tag := BitVec.ofNat 16 (field bytes 4 2)
  let blank : Operation :=
    { ring := k, take := take, slots := slots, tag := tag, fence := false, noIrq := false, body := none,
      phase := .waiting, starts := [], deadline := none, waitTap := 0, marks := [], stage := none, ended := 0,
      result := none }
  match decodeRecord k bytes with
  | .record r => { blank with fence := r.fence, noIrq := r.noIrq, body := some r.body }
  | .badRecord _ => blank
  | .wrongRing => blank

/-- A record is taken (R47) and decoded (R50): the take index advances by its slots, its context joins the ring's
window, and a record that fails decode goes straight to DONE. -/
def takeRecord (f : Fetch) (bytes : List Byte) (s : State) : State :=
  let x := s.ring f.ring
  let slots := byteAt bytes 1
  let s1 := (s.setFetch none).setRing f.ring
    { x with take := (x.take + slots) % x.size, window := x.window ++ [f.ctx] }
  let s2 := s1.setCtx f.ctx (some (newOperation f.ring x.take slots bytes))
  match decodeRecord f.ring bytes with
  | .record _ => s2
  | .badRecord aux => finish f.ctx .badRecord 0 aux s2
  | .wrongRing => finish f.ctx .wrongRing 0 0 s2

/-- A ring takes records: it is RUNNING or PAUSED (R48). -/
def takesRecords (x : CmdRing) : Bool := decide (x.state = .running) || decide (x.state = .paused)

/-- A fetch's last read has completed with the record's slots (R48): the record is taken while the ring is RUNNING or
PAUSED; otherwise the slots are dropped and the context goes back to the pool. -/
def endFetch (f : Fetch) (bytes : List Byte) (s : State) : State :=
  if takesRecords (s.ring f.ring) then takeRecord f bytes s else s.setFetch none

/-- The first slot of a fetch has been read (R47): an impossible slot count stops the ring, unless it had stopped or
was draining; a one-slot record's fetch has ended; of a two-slot record the second slot is read when it is posted.
When it is not, the held mark is set: at a posted count of 1 by R47, at a count of 0 by the model's choice (log 22). -/
def firstSlot (f : Fetch) (bytes : List Byte) (s : State) : State :=
  let x := s.ring f.ring
  if slotsAllowed (bytes.getD 0 0) (byteAt bytes 1) = false then stopRing f.ring .badSlots (s.setFetch none)
  else if byteAt bytes 1 = 1 then endFetch f bytes s
  else if 2 ≤ postedSlots x then
    askRead .fetch (slotAddr x ((x.take + 1) % x.size)) 64 (s.setFetch (some { f with first := some bytes }))
  else if takesRecords x then (s.setFetch none).setRing f.ring { x with held := some x.post }
  else s.setFetch none

/-- A fetch read has completed (R47): the first slot's, or the second's, which ends the fetch (R48). -/
def fetchArrived (bytes : List Byte) (s : State) : State :=
  match s.fetcher.fetch with
  | none => s
  | some f =>
    match f.first with
    | none => firstSlot f bytes s
    | some first => endFetch f (first ++ bytes) s

/-- A fetch read has failed (R49): the ring stops with FETCH_FAULT, unless it had stopped or was draining. -/
def fetchFailed (s : State) : State :=
  match s.fetcher.fetch with
  | none => s
  | some f => stopRing f.ring .fetchFault (s.setFetch none)

/-- Host read `n`, if it has been issued and not yet settled. -/
def issuedRead (n : Nat) (s : State) : Option HostRead :=
  s.host.reads.find? fun x => x.number == n && x.issued.isSome

/-- A host read is settled and no longer outstanding. -/
def dropRead (n : Nat) (s : State) : State :=
  s.setHost { s.host with reads := s.host.reads.filter fun x => x.number ≠ n }

/-- A host read has failed and is handed back to its requester (R160). -/
def readFailed (x : HostRead) (s : State) : State :=
  match x.requester with
  | .fetch => fetchFailed s
  | .mover m _ => transferFailed m x.addr s
  | .nobody => s

/-- The bytes of a read that has succeeded are handed to its requester (R160). -/
def readArrived (x : HostRead) (bytes : List Byte) (s : State) : State :=
  match x.requester with
  | .fetch => fetchArrived bytes s
  | .mover m k => transferArrived m k bytes s
  | .nobody => s

/-- More than 50,000 microseconds have passed since a read was issued (R160; at 50,000 exactly: log 39). -/
def overdue (x : HostRead) (s : State) : Bool := decide (x.issued.getD s.now + Config.readTimeout < s.now)

/-- HOST_READ_COMPLETE (R160): the last byte asked for has arrived. In time, the bytes are handed to the requester;
later the read has failed and they are dropped. -/
def execHostReadComplete (n : Nat) (bytes : List Byte) (s : State) : Answer :=
  match issuedRead n s with
  | none => notDue s
  | some x =>
    if bytes.length = x.len then
      took (if overdue x s then readFailed x (dropRead n s) else readArrived x bytes (dropRead n s))
    else notDue s

/-- HOST_READ_ERROR (R160). -/
def execHostReadError (n : Nat) (s : State) : Answer :=
  match issuedRead n s with
  | none => notDue s
  | some x => took (readFailed x (dropRead n s))

/-- HOST_READ_TIMEOUT (R160): 50,000 microseconds after its issue. -/
def execHostReadTimeout (n : Nat) (s : State) : Answer :=
  match issuedRead n s with
  | none => notDue s
  | some x =>
    if x.issued.getD s.now + Config.readTimeout ≤ s.now then took (readFailed x (dropRead n s)) else notDue s

end Sys2Proof.Machine
end

