-- ==== Sys2Proof/Machine/Resets.lean ====
section
/-! DEFINITION. The four kinds of reset and the return of the link (R19, R40, R63, R155, R168 to R174). -/

namespace Sys2Proof.Machine

/-- A line after a function or link reset (R19, R174): an OPEN line is kept, its floor raised when its active writer
was MOVING; a CLOSING line becomes FREE. -/
def resetLine (s : State) (n : LineId) : Line :=
  let l := s.line n
  match l.state with
  | .free => Line.freeLine
  | .closing => Line.freeLine
  | .opened =>
    { l with f := if movingFrames n s = 0 then l.f else abandonedFloor l (movingFrames n s), writers := [], park := [],
             pins := [], lapPending := false, held := false }

/-- The free extent table after a function or link reset: the extents of every CLOSING line are returned (R40). -/
def resetFree (s : State) : List Extent :=
  s.lines.rows.foldl (fun t l => if l.state = .closing then returnExtents l.extents t else t) s.store.freeExts

/-- A store access in progress outlives the operation it was for (R32, R158). -/
def orphanBusy : Busy → Busy
  | .access a => .access { a with mover := none }
  | .refresh => .refresh

/-- The Store Controller after a function or link reset (R40). -/
def resetStore (s : State) : StoreController :=
  { s.store with power := if s.store.power = .selfRefresh then .exiting else s.store.power, freeExts := resetFree s,
                 waiting := [], busy := s.store.busy.map orphanBusy, faultPending := false }

/-- Reads still outstanding at a reset are dropped when their answers arrive; reads not yet issued are forgotten
(R158, R168; log 9). -/
def orphanReads (reads : List HostRead) : List HostRead :=
  (reads.filter fun x => x.issued.isSome).map fun x => { x with requester := .nobody }

/-- The Host Port after a function reset (R168). -/
def resetHost (s : State) (cause : ResetCause) : HostPort :=
  { s.host with enable := .off, resetCause := cause, quiesce := .awake, waiters := [],
                reads := orphanReads s.host.reads,
                vectors := s.host.vectors.map fun v => { v with pending := false } }

/-- A function reset: every block takes its reset values, the lines and the store kept (R172). -/
def functionReset (cause : ResetCause) (s : State) : State :=
  { s with host := resetHost s cause, fetcher := RingFetcher.reset, sched := Scheduler.reset,
           lines := ⟨(List.finRange 256).map (resetLine s), by simp⟩, parkTimer := [], movers := Table.fill 4 none,
           store := resetStore s, resp := ResponseUnit.reset }

/-- A link reset: a function reset that also clears the register window, the host write queue, the message
configuration and a held ENABLE (R173). -/
def linkReset (lost : Bool) (s : State) : State :=
  let t := functionReset .link s
  t.setHost
    { HostPort.reset with
      resetCause := .link
      linkUp := !lost && s.host.linkUp
      permitted := s.host.permitted
      reads := t.host.reads
      nextRead := s.host.nextRead }

/-- A power-on or pin reset clears everything (R170); host reads still outstanding are dropped when their answers
arrive (R168), and the link's own state is kept (log 4). -/
def powerReset (cause : ResetCause) (s : State) : State :=
  { State.reset with
    pending := s.pending
    link := s.link
    host := { HostPort.reset with
      resetCause := cause
      linkUp := s.host.linkUp
      reads := (orphanReads s.host.reads).map fun x => { x with issued := some 0 }
      nextRead := s.host.nextRead } }

/-- POWER_ON_RESET (R169). -/
def execPowerOnReset (s : State) : Answer := took (powerReset .powerOn s)

/-- PIN_RESET (R169). -/
def execPinReset (s : State) : Answer := took (powerReset .pin s)

/-- LINK_RESET (R173). -/
def execLinkReset (lost : Bool) (s : State) : Answer := took (linkReset lost s)

/-- LINK_RETURN (R173): the part answers register accesses and can make host transfers again; reads asked for meanwhile
are issued in this step, ahead of every queued write (DESIGN CHOICE, log 48). -/
def execLinkReturn (s : State) : Answer :=
  if s.host.linkUp then notDue s
  else
    let t := s.setHost { s.host with linkUp := true }
    took (if t.host.permitted then issueReads t else t)

end Sys2Proof.Machine
end

