-- ==== Sys2Proof/Machine/Response.lean ====
section
/-! DEFINITION. The Response Unit's commands: item writes, releases and faults, moderation, and the response ring
control records (R140 to R155). -/

namespace Sys2Proof.Machine

/-- The command rings bound to a response ring, ascending (R41, R143). -/
def boundRings (r : RespId) (s : State) : List RingId :=
  s.fetcher.rings.indices fun x => decide (x.state ≠ .disabled) && decide (x.resp = r)

/-- An item can be written to response ring `r`: it is ACTIVE and its unreleased count is below its size (R146). -/
def canWrite (s : State) (r : RespId) : Bool :=
  decide ((s.respRing r).state = .active) && decide ((s.respRing r).unreleased < (s.respRing r).size)

/-- The item the Response Unit writes next: of the head items that can be written, the one that joined its post queue
earliest (R147). -/
def nextItem (s : State) : Option Posted := s.resp.posts.find? fun x => canWrite s x.ring

/-- Items have been discarded: a Response Unit with no item left to write no longer waits for a place (R161; log 25). A
mover whose waiting write is let in by this asks for its next store access at a later step (DESIGN CHOICE, log 25). -/
def dropItemWait (s : State) : State :=
  if Waiter.item ∈ s.host.waiters ∧ nextItem s = none then giveUpPlace .item s else s

/-- A response ring faults (R149, R150): its post queue is discarded, its interrupt is sent, a RESPONSE_FAULTED notice
is raised for rings 1 to 3, and the Ring Fetcher stops the rings bound to it, in ascending number (log 37). -/
def faultResp (r : RespId) (info : FaultInfo) (s : State) : State :=
  let x := s.respRing r
  let s1 := s.setRespRing r { x with state := .faulted, fault := if r = 0 then none else some info }
  let s2 := discardPosts r s1
  let s3 := if x.intOn then sendInterrupt r s2 else s2
  let s4 := if r = 0 then s3 else raiseRespFaulted r info s3
  dropItemWait ((boundRings r s4).foldl (fun t k => stopRing k .responseFault t) s4)

/-- A release-index write taken at a response ring (R148). -/
def release (r : RespId) (v : Nat) (s : State) : State :=
  let x := s.respRing r
  if x.state = .active then
    if x.size ≤ v then faultResp r ⟨2, v, x.unreleased⟩ s
    else
      let n := (v + x.size - x.release) % x.size
      if x.unreleased < n then faultResp r ⟨1, v, x.unreleased⟩ s
      else s.setRespRing r { x with release := v, unreleased := x.unreleased - n }
  else s

/-- Whether an item raises the unsignalled count: every item but a completion whose record carried NO_IRQ (R153). -/
def countsItem (s : State) : PostItem → Bool
  | .completion c =>
    match s.ctx c with
    | none => true
    | some o => !o.noIrq
  | .lap _ => true
  | .ringStopped _ => true
  | .storeFault => true
  | .respFaulted _ => true

/-- The host write of an item: 16 bytes to the slot at the fill index (R140, R146), whose
address is taken modulo 2^64 (DESIGN CHOICE, log 44). -/
def itemWriteOf (s : State) (x : Posted) : HostWrite :=
  let r := s.respRing x.ring
  ⟨.item x.ring, r.base + BitVec.ofNat 64 (16 * r.fill), itemBytes s r.phase x.item⟩

/-- The indices of a response ring after an item write (R146, steps 4 and 5). -/
def advanceFill (r : RespRing) : RespRing :=
  let fill := (r.fill + 1) % r.size
  { r with fill := fill, phase := if fill = 0 then !r.phase else r.phase, unreleased := r.unreleased + 1 }

/-- The unsignalled count after an item write, and the interrupt it may send (R146 step 6, R153). -/
def countItem (r : RespId) (counts : Bool) (s : State) : State :=
  let x := s.respRing r
  if x.intOn = true ∧ counts = true then
    let n := x.unsignalled + 1
    let t := s.setRespRing r { x with unsignalled := n, oldest := if n = 1 then some s.now else x.oldest }
    if n = x.modCount then sendInterrupt r t else t
  else s

/-- The writing of an item, one event at its ring (R146). -/
def writeItem (x : Posted) (s : State) : State :=
  let s1 := takePlace .item [itemWriteOf s x] s
  let s2 := discardItem (s1.setPosts (s1.resp.posts.erase x)) x.item
  let s3 := s2.setRespRing x.ring (advanceFill (s2.respRing x.ring))
  countItem x.ring (countsItem s x.item) s3

/-- ITEM_WRITE (R146, R147): the next item is written, or waits for a place in the host write queue behind every
requester that has waited longer (R161). -/
def execItemWrite (s : State) : Answer :=
  match nextItem s with
  | none => notDue s
  | some x => if hasPlace .item 1 s then took (pumpAll (writeItem x s)) else took (awaitPlace .item s)

/-- MODERATION_TIME_EXPIRY (R153): the oldest unsignalled item has waited for the moderation time. -/
def execModerationTimeExpiry (r : RespId) (s : State) : Answer :=
  let x := s.respRing r
  match x.oldest with
  | none => notDue s
  | some old =>
    if x.state = .active ∧ x.intOn = true ∧ 0 < x.modTime ∧ 0 < x.unsignalled ∧ old + x.modTime ≤ s.now then
      took (sendInterrupt r s)
    else notDue s

/-- The entry CREATE_RESPONSE fills (R142). -/
def newRespRing (base : HostAddr) (logSize count : Nat) (interrupt : Bool) (time : Nat) : RespRing :=
  { RespRing.absentRing with
    state := .active
    base := base
    size := 2 ^ logSize
    phase := true
    intOn := interrupt
    modCount := count
    modTime := time }

end Sys2Proof.Machine
end

