-- ==== Sys2Proof/Machine/Registers.lean ====
section
/-! DEFINITION. The register window: ENABLE and its configuration check, the configuration registers, IDLE_DELAY, the
index registers (R43, R148, R163 to R167, R177). While the link is down no register access takes place (R173). -/

namespace Sys2Proof.Machine

/-- The base two address registers hold. -/
def baseOf (hi lo : Word32) : HostAddr := (hi ++ lo : BitVec 64)

/-- The configuration check (R165). -/
def configOk (h : HostPort) : Bool :=
  decide (4 ≤ h.ctrlSize.toNat) && decide (h.ctrlSize.toNat ≤ 12) && decide (4 ≤ h.resp0Size.toNat)
    && decide (h.resp0Size.toNat ≤ 13) && h.ctrlBaseLo.toNat % 64 == 0 && h.resp0BaseLo.toNat % 64 == 0

/-- Command ring 0's entry when ENABLE takes effect (R62); its priority ranks above level 3 (log 33). -/
def controlRing (h : HostPort) (old : CmdRing) : CmdRing :=
  { CmdRing.disabledRing with
    state := .running
    base := baseOf h.ctrlBaseHi h.ctrlBaseLo
    size := 2 ^ h.ctrlSize.toNat
    prio := 4
    windowSize := 1
    notice := old.notice }

/-- Response ring 0's entry when ENABLE takes effect (R144). -/
def responseRing0 (h : HostPort) : RespRing :=
  { RespRing.absentRing with
    state := .active
    base := baseOf h.resp0BaseHi h.resp0BaseLo
    size := 2 ^ h.resp0Size.toNat
    phase := true
    intOn := (h.resp0Mod.extractLsb' 8 8).toNat == 1
    modCount := max 1 (h.resp0Mod.extractLsb' 0 8).toNat
    modTime := (h.resp0Mod.extractLsb' 16 16).toNat }

/-- ENABLE takes effect: command ring 0 becomes RUNNING, response ring 0 ACTIVE, and a STORE_FAULT notice is raised if
the store is in FAULT (R164). -/
def enableTakesEffect (s : State) : State :=
  let s1 := s.setHost { s.host with enable := .on }
  let s2 := s1.setRing 0 (controlRing s.host (s.ring 0))
  let s3 := s2.setRespRing 0 (responseRing0 s.host)
  if s.store.state = .fault then raiseStoreFault s3 else s3

/-- A CONTROL write with bit 0 set or clear (R164), and a wake event for the QUIET state (R177). -/
def writeEnable (bit : Bool) (s0 : State) : State :=
  let s := quietWake s0
  match s.host.enable, bit with
  | .off, false => s
  | .off, true =>
    if configOk s.host then
      let t := s.setHost { s.host with enable := .held, configError := false }
      if s.store.state = .calibrating then t else enableTakesEffect t
    else s.setHost { s.host with configError := true }
  | .on, true => s
  | .on, false => functionReset .function s
  | .held, true => s
  | .held, false => s.setHost { s.host with enable := .off }

/-- A configuration register written while ENABLE is 0 (R165). -/
def storeConfig (reg : ConfigReg) (v : Word32) (h : HostPort) : HostPort :=
  match reg with
  | .ctrlBaseLo => { h with ctrlBaseLo := v }
  | .ctrlBaseHi => { h with ctrlBaseHi := v }
  | .ctrlSize => { h with ctrlSize := v.setWidth 8 }
  | .resp0BaseLo => { h with resp0BaseLo := v }
  | .resp0BaseHi => { h with resp0BaseHi := v }
  | .resp0Size => { h with resp0Size := v.setWidth 8 }
  | .resp0Mod => { h with resp0Mod := v }

/-- A write to a configuration register (R165). -/
def writeConfig (reg : ConfigReg) (v : Word32) (s : State) : State :=
  if s.host.enable = .off then s.setHost (storeConfig reg v s.host) else s

/-- A write to IDLE_DELAY (R166). -/
def writeIdleDelay (v : Word32) (s : State) : State := s.setHost { s.host with idleDelay := v.setWidth 16 }

/-- A post index recorded for a ring; a value that differs from the one before clears the held mark (R43). -/
def recordPost (k : RingId) (v : Nat) (s : State) : State :=
  let x := s.ring k
  s.setRing k { x with post := v, held := if v = x.post then x.held else none }

/-- A write to POST k (R43, R167), and a wake event for the QUIET state when ring k is RUNNING (R177). -/
def writePost (k : RingId) (v : Nat) (s0 : State) : State :=
  let s := if (s0.ring k).state = .running then quietWake s0 else s0
  let x := s.ring k
  if x.state = .running ∨ x.state = .paused then
    if v < x.size then recordPost k v s else stopRing k .badPost s
  else s

/-- A 32-bit write at a byte offset of the window; what the offset does not name is ignored (R73, R163). -/
def writeWindow (offset : Nat) (v : Word32) (s : State) : State :=
  if offset = 0x08 then writeEnable (v.getLsbD 0) s
  else if offset = 0x0C then writeIdleDelay v s
  else if offset = 0x10 then writeConfig .ctrlBaseLo v s
  else if offset = 0x14 then writeConfig .ctrlBaseHi v s
  else if offset = 0x18 then writeConfig .ctrlSize v s
  else if offset = 0x20 then writeConfig .resp0BaseLo v s
  else if offset = 0x24 then writeConfig .resp0BaseHi v s
  else if offset = 0x28 then writeConfig .resp0Size v s
  else if offset = 0x2C then writeConfig .resp0Mod v s
  else if 0x40 ≤ offset ∧ offset < 0x80 ∧ offset % 4 = 0 then writePost (Fin.ofNat 16 ((offset - 0x40) / 4)) v.toNat s
  else if 0x80 ≤ offset ∧ offset < 0x90 ∧ offset % 4 = 0 then release (Fin.ofNat 4 ((offset - 0x80) / 4)) v.toNat s
  else s

/-- ENABLE_SET (R164). -/
def execEnableSet (upper : BitVec 31) (s : State) : Answer :=
  if s.host.linkUp then took (writeEnable ((upper ++ 1#1).getLsbD 0) s) else notDue s

/-- ENABLE_CLEAR (R164). -/
def execEnableClear (upper : BitVec 31) (s : State) : Answer :=
  if s.host.linkUp then took (writeEnable ((upper ++ 0#1).getLsbD 0) s) else notDue s

/-- CONTROL_WRITE (R164, R177): bits 1 to 31 of the value are ignored. -/
def execControlWrite (v : Word32) (s : State) : Answer :=
  if s.host.linkUp then took (writeEnable (v.getLsbD 0) s) else notDue s

/-- CONFIG_REGISTER_WRITE (R165). -/
def execConfigRegisterWrite (reg : ConfigReg) (v : Word32) (s : State) : Answer :=
  if s.host.linkUp then took (writeConfig reg v s) else notDue s

/-- IDLE_DELAY_WRITE (R166). -/
def execIdleDelayWrite (v : Word32) (s : State) : Answer :=
  if s.host.linkUp then took (writeIdleDelay v s) else notDue s

/-- REGISTER_WRITE (R163): a write narrower than 32 bits is ignored in full; a 32-bit write does what its offset
names. -/
def execRegisterWrite (offset : BitVec 8) (width : Width) (v : Word32) (s : State) : Answer :=
  if s.host.linkUp then (if width = .word then took (writeWindow offset.toNat v s) else notDue s) else notDue s

/-- POST_WRITE (R43). -/
def execPostWrite (k : RingId) (v : Word32) (s : State) : Answer :=
  if s.host.linkUp then took (writePost k v.toNat s) else notDue s

/-- RELEASE_WRITE (R148). -/
def execReleaseWrite (r : RespId) (v : Word32) (s : State) : Answer :=
  if s.host.linkUp then took (release r v.toNat s) else notDue s

end Sys2Proof.Machine
end

