-- ==== Sys2Proof/Machine/Store.lean ====
section
/-! DEFINITION. The Store Controller's commands: the end of calibration, refreshes, the serving of store accesses,
self-refresh (R21 to R23, R32 to R39, R176). -/

namespace Sys2Proof.Machine

/-! ### Calibration -/

/-- The store leaves CALIBRATING; the debt is 0 and the interval timer starts (R21, R36). -/
def calibrated (succeeded : Bool) (s : State) : State :=
  s.setStore { s.store with state := if succeeded then .ready else .fault, debt := 0, timer := 0 }

/-- CALIBRATION_COMPLETE (R21): the store enters READY or FAULT, FAULT raises a STORE_FAULT notice (R23), and a held
ENABLE takes effect (R164, R171). -/
def execCalibrationComplete (succeeded : Bool) (s : State) : Answer :=
  if s.store.state = .calibrating then
    let s1 := calibrated succeeded s
    let s2 := if succeeded then s1 else raiseStoreFault s1
    took (if s2.host.enable = .held then enableTakesEffect s2 else s2)
  else notDue s

/-! ### Refresh -/

/-- The interval timer runs: the store is READY and the power sub-state ACTIVE (R36). -/
def timerRuns (s : State) : Bool := decide (s.store.state = .ready) && decide (s.store.power = .active)

/-- REFRESH_DUE (R36): an interval has passed and the debt rises by 1. -/
def execRefreshDue (s : State) : Answer :=
  if timerRuns s = true ∧ Config.refreshTenths ≤ s.store.timer then
    took (s.setStore { s.store with timer := s.store.timer - Config.refreshTenths,
                                    debt := min Config.maxDebt (s.store.debt + 1) })
  else notDue s

/-- ORDINARY_REFRESH (R36): with debt above 0, nothing in progress and nothing waiting, a refresh is issued; at a debt
of 8 the refresh is a forced one (R37). -/
def execOrdinaryRefresh (s : State) : Answer :=
  if timerRuns s = true ∧ 0 < s.store.debt ∧ s.store.debt < Config.maxDebt ∧ s.store.busy = none ∧ s.store.waiting = []
  then took (s.setStore { s.store with debt := s.store.debt - 1, busy := some .refresh })
  else notDue s

/-- FORCED_REFRESH (R37): at a debt of 8, nothing being in progress, a refresh goes ahead of every waiting access. -/
def execForcedRefresh (s : State) : Answer :=
  if timerRuns s = true ∧ s.store.debt = Config.maxDebt ∧ s.store.busy = none then
    took (s.setStore { s.store with debt := s.store.debt - 1, busy := some .refresh,
                                    forced := countUp s.store.forced 1 })
  else notDue s

/-- REFRESH_COMPLETE (R36). -/
def execRefreshComplete (s : State) : Answer :=
  if s.store.busy = some .refresh then took (s.setStore { s.store with busy := none }) else notDue s

/-! ### Accesses -/

/-- Host reads of a mover that has given up its operation are dropped when they arrive (R158). -/
def abandonReads (m : MoverId) (s : State) : State :=
  s.setHost { s.host with reads := s.host.reads.map fun x => if askedBy m x then { x with requester := .nobody } else x }

/-- The pins of a read are removed (R11, R119), one line after the other, in the order its lines first appear (DESIGN
CHOICE, log 13). -/
def removePins (ns : List LineId) (c : CtxId) (s : State) : State := ns.foldl (fun t n => removePin n c t) s

/-- The operation a mover carries has had its store access refused (R22): it ends STORE_FAULT and moves nothing more; a
writer leaves the head of the queue with W and F unchanged (log 21). -/
def refuseAccess (m : MoverId) (s : State) : State :=
  match s.mover m with
  | none => s
  | some mv =>
    match (s.ctx mv.ctx).bind Operation.body with
    | none => s
    | some b =>
      let s1 := (abandonReads m s).setMover m none
      let s2 := removePins (firstAppearances (sourcesOf b)) mv.ctx s1
      let s3 := match destOf b with
        | none => s2
        | some n => drainTest n (leaveHead n s2)
      finish mv.ctx .storeFault 0 0 s3

/-- Whether the store may serve an access now (R32): nothing is in progress, no forced refresh goes ahead of it (R37),
and the power sub-state is ACTIVE. -/
def servesAccess (s : State) : Bool :=
  decide (s.store.busy = none) && decide (s.store.debt < Config.maxDebt) && decide (s.store.power = .active)

/-- The state without the oldest waiting access. -/
def dropAccess (s : State) : State := s.setStore { s.store with waiting := s.store.waiting.tail }

/-- STORE_ACCESS_START (R32): the oldest waiting access is served, or refused in FAULT (R22). -/
def execStoreAccessStart (s : State) : Answer :=
  match s.store.waiting with
  | [] => notDue s
  | a :: _ =>
    match s.store.state with
    | .calibrating => notDue s
    | .fault =>
      match a.mover with
      | none => took (dropAccess s)
      | some m => took (refuseAccess m (dropAccess s))
    | .ready =>
      if servesAccess s then
        if a.addr + a.len ≤ Config.storeBytes then
          took (s.setStore { s.store with waiting := s.store.waiting.tail, busy := some (.access a) })
        else .fault .storeAddress
      else notDue s

/-- The words of a burst with one bit in error (R33). -/
def singleWords (marks : List (Nat × Flip)) (ws : List Nat) : List Nat :=
  ws.filter fun w => decide (markOf marks w = some .single)

/-- The words of a burst that are uncorrectable (R34). -/
def badWords (marks : List (Nat × Flip)) (ws : List Nat) : List Nat :=
  ws.filter fun w => decide (markOf marks w = some .double)

/-- The bytes a read burst delivers: corrected, and zeros for an uncorrectable word (R33, R34). -/
def deliveredBytes (cells : List Host.Cell) (marks : List (Nat × Flip)) (addr len : Nat) : List Byte :=
  (List.range' addr len).map fun a =>
    if markOf marks (a / Config.wordBytes) = some .double then 0 else Memory.read cells a

/-- A read burst ends (R33, R34). -/
def readBurstDone (a : Access) (s : State) : State :=
  let ws := wordsOf a.addr a.len
  let c := s.store
  let t := s.setStore { c with busy := none, corrected := countUp c.corrected (singleWords c.marks ws).length }
  match a.mover with
  | none => t
  | some m => deliver m a.run (deliveredBytes c.cells c.marks a.addr a.len) (badWords c.marks ws) t

/-- The words of a write burst it covers only in part (R35). -/
def partWords (addr len : Nat) : List Nat := (wordsOf addr len).filter fun w => !coversWord addr len w

/-- The marks after a write burst (R35): a word covered whole loses its mark; a partly covered word with one bit in
error is repaired; a partly covered uncorrectable word keeps its mark. -/
def marksAfterWrite (marks : List (Nat × Flip)) (addr len : Nat) : List (Nat × Flip) :=
  (wordsOf addr len).foldl
    (fun t w => if coversWord addr len w then clearMark t w else if markOf t w = some .single then clearMark t w else t)
    marks

/-- A write burst ends (R35). -/
def writeBurstDone (a : Access) (bytes : List Byte) (s : State) : State :=
  let c := s.store
  let t := s.setStore
    { c with
      busy := none
      cells := Memory.writeBytes c.cells a.addr bytes
      marks := marksAfterWrite c.marks a.addr bytes.length
      corrected := countUp c.corrected (singleWords c.marks (partWords a.addr bytes.length)).length }
  match a.mover with
  | none => t
  | some m => stored m bytes.length t

/-- STORE_ACCESS_COMPLETE (R32): the access in progress ends, with the words found flipped by then (log 7). -/
def execStoreAccessComplete (flips : List (Nat × Flip)) (s : State) : Answer :=
  match s.store.busy with
  | some (.access a) =>
    let t := s.setStore { s.store with marks := flips.foldl addFlip s.store.marks }
    match a.write with
    | none => took (readBurstDone a t)
    | some bytes => took (writeBurstDone a bytes t)
  | _ => notDue s

/-! ### Self-refresh -/

/-- The store enters SELF_REFRESH (R38): the debt is 0 and the interval timer does not run. A refresh in progress at
that moment runs on to its end (DESIGN CHOICE, log 43). -/
def enterSelfRefresh (s : State) : State :=
  s.setStore { s.store with power := .selfRefresh, debt := 0, timer := 0 }

/-- The comparison of the post indices with the snapshot (R176): a difference takes the part out of QUIET and begins
the store's exit (R39, R177). -/
def compareSnapshot (snapshot : List Nat) (s : State) : State :=
  if postIndices s = snapshot then s.setHost { s.host with quiesce := .quiet none } else quietWake s

/-- IDLE_DEADLINE_EXPIRY (R176): the part becomes QUIET; a READY store enters SELF_REFRESH, once an exit in progress
has ended (R39), and the comparison follows; with the store in FAULT it is made at once. -/
def execIdleDeadlineExpiry (s : State) : Answer :=
  match s.host.quiesce with
  | .idling deadline snapshot =>
    if deadline ≤ s.now then
      let t := s.setHost { s.host with quiesce := .quiet (some snapshot) }
      if s.store.state = .ready then
        if s.store.power = .exiting then took t else took (compareSnapshot snapshot (enterSelfRefresh t))
      else took (compareSnapshot snapshot t)
    else notDue s
  | _ => notDue s

/-- SELF_REFRESH_EXIT_END (R39): the store becomes ACTIVE with debt 0 and a new interval; if the part has become QUIET
meanwhile, the store re-enters SELF_REFRESH and the comparison of R176 is made. -/
def execSelfRefreshExitEnd (s : State) : Answer :=
  if s.store.power = .exiting then
    let t := s.setStore { s.store with power := .active, debt := 0, timer := 0 }
    match s.host.quiesce with
    | .quiet snapshot =>
      if s.store.state = .ready then
        match snapshot with
        | none => took (enterSelfRefresh t)
        | some snap => took (compareSnapshot snap (enterSelfRefresh t))
      else took t
    | _ => took t
  else notDue s

end Sys2Proof.Machine
end

