-- ==== Sys2Proof/Machine/Taps.lean ====
section
/-! DEFINITION. Taps and parking: the start of a TAP, its re-check at a mover grant, the end of its moving, and the
expiry of a parked read's deadline (R90 to R110, R117). -/

namespace Sys2Proof.Machine

/-- A read parks on line `n` (R94, R113): it is PARKED with its deadline, and waits for tap number `tap` if it is a
MIX. -/
def parkRead (n : LineId) (c : CtxId) (windowEnd deadline tap : Nat) (s : State) : State :=
  parkOn n c windowEnd deadline
    (s.modCtx c fun o => { o with phase := .parked, stage := none, deadline := some deadline, waitTap := tap })

/-- A read's window start is resolved and kept (R92, R113). -/
def keepStart (c : CtxId) (p : Nat) (s : State) : State := s.modCtx c fun o => { o with starts := o.starts ++ [p] }

/-- A TAP whose window is resolved is placed, still within its start (R93). -/
def placeTap (n : LineId) (c : CtxId) (p frames wait : Nat) (s : State) : State :=
  let l := s.line n
  if Config.maxPosition < p + frames then finish c .positionLimit p frames s
  else if p < oldestCounting l then finish c .gone (oldestCounting l) 1 s
  else if p + frames ≤ l.w then makeReady c (keepStart c p s)
  else if wait = 0 then finish c .notReady l.w 0 s
  else parkRead n c (p + frames) (s.now + wait) 0 (keepStart c p s)

/-- The start of a TAP (R91 to R93). -/
def startTap (n : LineId) (c : CtxId) (frames wait : Nat) (absolute : Bool) (fld : Nat) (mask : BitVec 16)
    (s : State) : State :=
  let l := s.line n
  if l.state ≠ .opened then finish c .noLine 0 0 s
  else if l.cap < frames then finish c .tooLong l.w l.cap s
  else if maskFits l mask = false then finish c .badShape 0 l.channels s
  else match windowStart l absolute fld with
    | none => finish c .gone (oldestCounting l) 1 s
    | some p => placeTap n c p frames wait s

/-- TAP (R91). -/
def execTap (k : RingId) (s : State) : Answer :=
  match nextStart k s with
  | some (c, .tap n _ frames wait absolute fld mask) => took (startTap n c frames wait absolute fld mask s)
  | _ => notDue s

/-! ### The grant -/

/-- A pin is placed on a line (R11). -/
def placePin (n : LineId) (x : Pin) (s : State) : State :=
  s.setLine n { s.line n with pins := (s.line n).pins ++ [x] }

/-- The re-check of a TAP granted mover `m`, one event at its line with the pin (R100, R131). Any CLOSING state cancels
the mark, be it a later close's (DESIGN CHOICE, log 42). -/
def grantTap (m : MoverId) (n : LineId) (c : CtxId) (o : Operation) (frames : Nat) (s : State) : State :=
  let l := s.line n
  let p := o.starts.headD 0
  if n ∈ o.marks ∧ l.state ≠ .closing then finish c .gone Config.maxPosition 3 s
  else if p < oldestCounting l then finish c .gone (oldestCounting l) 3 s
  else
    pump m (((placePin n ⟨c, p, p + frames⟩ s).setPhase c .moving).setMover m
      (some { freshMover c with runs := [⟨n, p, frames, []⟩] }))

/-! ### The end of moving -/

/-- The read a mover carries has read every run whole and handed over its whole output (R106, R123). -/
def readDone (m : MoverId) (mv : Mover) (b : Body) (s : State) : Bool :=
  runsRead s mv && settledMover m s && decide (mv.hostDone = outputBytes s b)

/-- The result of a TAP at its end of moving (R104, R105). -/
def tapResult (n : LineId) (mv : Mover) (o : Operation) (frames : Nat) (s : State) : Settled :=
  let p := o.starts.headD 0
  match mv.firstBad with
  | some x => ⟨.dataError, x.1, frames⟩
  | none =>
    if p < overtakeBound (s.line n) (movingFrames n s) then ⟨.overtaken, p, frames⟩ else ⟨.ok, p, frames⟩

/-- TAP_END_OF_MOVING (R106): the status is decided, the pin removed with the guard re-check and the drain test, and
the TAP is DONE. -/
def execTapEndOfMoving (m : MoverId) (s : State) : Answer :=
  match s.mover m with
  | none => notDue s
  | some mv =>
    match s.ctx mv.ctx with
    | none => notDue s
    | some o =>
      match o.body with
      | some (.tap n addr frames wait absolute fld mask) =>
        if o.phase = .moving ∧ readDone m mv (.tap n addr frames wait absolute fld mask) s = true then
          let r := tapResult n mv o frames s
          took (finish mv.ctx r.status r.pos r.aux (removePin n mv.ctx (s.setMover m none)))
        else notDue s
      | _ => notDue s

/-! ### Expiry -/

/-- The line on whose park list a PARKED operation stands: a TAP's line, or that of the tap a MIX waits for (R114). -/
def parkedLine (o : Operation) : Option LineId :=
  match o.body with
  | some (.tap n ..) => some n
  | some (.mix _ _ _ _ taps) => (taps[o.waitTap - 1]?).map MixTap.line
  | _ => none

/-- The operation in context `c` is on line `n`'s park list (R16). -/
def onPark (n : LineId) (c : CtxId) (s : State) : Bool := (s.line n).park.any fun x => decide (x.ctx = c)

/-- The deadline of the operation in context `c` has been reached (R95). -/
def deadlineReached (c : CtxId) (s : State) : Bool := s.parkTimer.any fun x => decide (x.1 = c) && decide (x.2 ≤ s.now)

/-- PARK_DEADLINE_EXPIRY (R96, R117): an entry still on its line's park list leaves it and ends EXPIRED, with the
drain test; another claim having taken it, there is no deadline and nothing happens (R17). -/
def execParkDeadlineExpiry (c : CtxId) (s : State) : Answer :=
  match s.ctx c with
  | none => notDue s
  | some o =>
    match parkedLine o with
    | none => notDue s
    | some n =>
      if deadlineReached c s = true ∧ onPark n c s = true then
        took (drainTest n (finish c .expired (s.line n).w o.waitTap (unpark n c s)))
      else notDue s

end Sys2Proof.Machine
end

