-- ==== Sys2Proof/Machine/Mixes.lean ====
section
/-! DEFINITION. Mixes: the passes of a MIX over its lines, proceeding, the re-check at a mover grant and the end of
moving, each visit one event at its line (R111 to R126). Tap numbers are 1 to 8 in results, counted from 0 here. -/

namespace Sys2Proof.Machine

/-- A MIX goes on to the next visit of its passes (R111). -/
def setStage (c : CtxId) (x : MixStage) (s : State) : State := s.modCtx c fun o => { o with stage := some x }

/-! ### The shape pass (R112) -/

/-- The channel count of tap 1's line, as it stands at the visit (R112; log 40). -/
def tapOneChannels (taps : List MixTap) (s : State) : Nat :=
  match taps with
  | [] => 0
  | t :: _ => (s.line t.line).channels

/-- The three checks of a visit of the shape pass to a line; `number` is the tap number, 0 for the destination. -/
def shapeCheck (n : LineId) (number frames : Nat) (taps : List MixTap) (s : State) : Option Settled :=
  let l := s.line n
  if l.state ≠ .opened then some ⟨.noLine, 0, number⟩
  else if l.cap < frames then some ⟨.tooLong, l.w, l.cap⟩
  else if l.channels ≠ tapOneChannels taps s then some ⟨.badShape, 0, number⟩
  else none

/-- The stage after visit `i` of the shape pass succeeded. -/
def afterShape (dest : Option LineId) (taps : List MixTap) (i : Nat) : MixStage :=
  if i + 1 < taps.length ∨ (i + 1 = taps.length ∧ dest.isSome = true) then .shape (i + 1) else .place 0

/-- Visit `i` of the shape pass: a tap line, or after the last of them the destination line. -/
def shapeVisit (c : CtxId) (dest : Option LineId) (frames : Nat) (taps : List MixTap) (i : Nat) (s : State) : State :=
  let target : Option (LineId × Nat) := match taps[i]? with
    | some t => some (t.line, i + 1)
    | none => dest.map fun n => (n, 0)
  match target with
  | none => s
  | some (n, number) =>
    match shapeCheck n number frames taps s with
    | some r => finish c r.status r.pos r.aux s
    | none => setStage c (afterShape dest taps i) s

/-- The start of a MIX (R112): it is PASSING from the first visit of its shape pass, made here. -/
def startMix (c : CtxId) (dest : Option LineId) (frames : Nat) (taps : List MixTap) (s : State) : State :=
  shapeVisit c dest frames taps 0 ((s.setPhase c .passing))

/-- MIX (R112). -/
def execMix (k : RingId) (s : State) : Answer :=
  match nextStart k s with
  | some (c, .mix dest _ frames _ taps) => took (startMix c dest frames taps s)
  | _ => notDue s

/-! ### The placement passes (R113, R116) -/

/-- The window start of tap `i`: the one kept, or the one its field names now (R113, R116). -/
def startOfTap (o : Operation) (l : Line) (t : MixTap) (i : Nat) : Option Nat :=
  match o.starts[i]? with
  | some p => some p
  | none => windowStart l t.absolute t.field

/-- The MIX's window start at tap `i` is kept once resolved. -/
def keepTap (c : CtxId) (o : Operation) (i p : Nat) (s : State) : State :=
  if o.starts.length ≤ i then keepStart c p s else s

/-- Every tap of a MIX is satisfied: it proceeds (R118). With a host destination it becomes READY; with a line
destination its visit there comes next. -/
def proceed (c : CtxId) (dest : Option LineId) (s : State) : State :=
  match dest with
  | none => makeReady c (s.modCtx c fun o => { o with stage := none })
  | some _ => setStage c .join s

/-- Visit `i` of the placement pass of the start (R113). -/
def placeVisit (c : CtxId) (o : Operation) (dest : Option LineId) (frames wait : Nat) (taps : List MixTap) (i : Nat)
    (s : State) : State :=
  match taps[i]? with
  | none => s
  | some t =>
    let n := t.line
    let l := s.line n
    if n ∈ o.marks ∨ l.state ≠ .opened then finish c .noLine 0 (i + 1) s
    else match windowStart l t.absolute t.field with
      | none => finish c .gone (oldestCounting l) (i + 1 + 256) s
      | some p =>
        if Config.maxPosition < p + frames then finish c .positionLimit p (i + 1) s
        else if p < oldestCounting l then finish c .gone (oldestCounting l) (i + 1 + 256) s
        else if p + frames ≤ l.w then
          let t := keepStart c p s
          if i + 1 < taps.length then setStage c (.place (i + 1)) t else proceed c dest t
        else if wait = 0 then finish c .notReady l.w (i + 1) s
        else parkRead n c (p + frames) (s.now + wait) (i + 1) (keepStart c p s)

/-- The end of a wake's placement pass with every tap satisfied: a destination marked as closed ends the MIX, else it
proceeds (R116). -/
def wakeEnd (c : CtxId) (o : Operation) (dest : Option LineId) (s : State) : State :=
  match dest with
  | none => proceed c none s
  | some n => if n ∈ o.marks then finish c .noLine 0 0 s else proceed c (some n) s

/-- Visit `i` of a wake's placement pass (R116). -/
def wakeVisit (c : CtxId) (o : Operation) (dest : Option LineId) (frames : Nat) (taps : List MixTap) (i : Nat)
    (s : State) : State :=
  match taps[i]? with
  | none => s
  | some t =>
    let n := t.line
    let l := s.line n
    if n ∈ o.marks ∨ l.state ≠ .opened then finish c .noLine 0 (i + 1) s
    else match startOfTap o l t i with
      | none => finish c .gone (oldest l) (i + 1 + 512) s
      | some p =>
        if Config.maxPosition < p + frames then finish c .positionLimit p (i + 1) s
        else if p < oldest l then finish c .gone (oldest l) (i + 1 + 512) s
        else if p + frames ≤ l.w then
          let t := keepTap c o i p s
          if i + 1 < taps.length then setStage c (.wake (i + 1)) t else wakeEnd c o dest t
        else if o.deadline.getD 0 ≤ s.now then finish c .expired l.w (i + 1) s
        else parkRead n c (p + frames) (o.deadline.getD 0) (i + 1) (keepTap c o i p s)

/-! ### The join (R118) -/

/-- The visit of a MIX to its destination line: the mark and the state, the admission checks, the join. -/
def joinVisit (c : CtxId) (o : Operation) (n : LineId) (frames : Nat) (s : State) : State :=
  let l := s.line n
  if n ∈ o.marks ∨ l.state ≠ .opened then finish c .noLine 0 0 s
  else if l.cap < frames then finish c .tooLong l.w l.cap s
  else if Config.maxPosition < joinPosition l + frames then finish c .positionLimit (joinPosition l) frames s
  else joinQueue n c frames (s.modCtx c fun x => { x with stage := none })

/-! ### The grant (R119) -/

/-- The taps of a MIX on line `n`, each with its number counted from 0 and its window start. -/
def tapsOn (n : LineId) (taps : List MixTap) (starts : List Nat) : List (Nat × Nat) :=
  ((taps.zip starts).zipIdx.filter fun x => decide (x.1.1.line = n)).map fun x => (x.2, x.1.2)

/-- The number, from 1, of the first tap on line `n`. -/
def firstTapOn (n : LineId) (taps : List MixTap) : Nat := (taps.findIdx fun t => decide (t.line = n)) + 1

/-- The checks of the re-check's visit to line `n` (R119, steps 1 and 2). Any CLOSING state cancels the mark, be it a
later close's (DESIGN CHOICE, log 42). -/
def grantCheck (n : LineId) (o : Operation) (taps : List MixTap) (s : State) : Option Settled :=
  let l := s.line n
  if n ∈ o.marks ∧ l.state ≠ .closing then some ⟨.noLine, 0, firstTapOn n taps⟩
  else ((tapsOn n taps o.starts).find? fun x => decide (x.2 < oldestCounting l)).map fun x =>
    ⟨.gone, oldestCounting l, x.1 + 1 + 768⟩

/-- The one pin a MIX places on a line: from the lowest p to the greatest e of its taps there (R11). -/
def mixPin (n : LineId) (c : CtxId) (o : Operation) (frames : Nat) (taps : List MixTap) : Pin :=
  let ps := (tapsOn n taps o.starts).map Prod.snd
  ⟨c, ps.foldl min (ps.headD 0), ps.foldl max 0 + frames⟩

/-- The runs a MIX's mover reads, one for each tap (R120). -/
def mixRuns (o : Operation) (frames : Nat) (taps : List MixTap) : List Run :=
  (taps.zip o.starts).map fun x => ⟨x.1.line, x.2, frames, []⟩

/-- A MIX fails its re-check (R119): the pins on earlier lines are removed, the mover is free, and a MIX into a line
leaves the head of its destination's queue with W and F unchanged (log 13, log 35). -/
def failGrant (m : MoverId) (c : CtxId) (dest : Option LineId) (earlier : List LineId) (r : Settled) (s : State) :
    State :=
  let s1 := removePins earlier c (s.setMover m none)
  let s2 := match dest with
    | none => s1
    | some n => drainTest n (leaveHead n s1)
  finish c r.status r.pos r.aux s2

/-- Visit `k` of the re-check at a mover grant, to the `k`-th distinct source line (R119). -/
def grantVisit (m : MoverId) (c : CtxId) (o : Operation) (dest : Option LineId) (frames : Nat) (taps : List MixTap)
    (k : Nat) (s : State) : State :=
  let lines := firstAppearances (taps.map MixTap.line)
  match lines[k]? with
  | none => s
  | some n =>
    match grantCheck n o taps s with
    | some r => failGrant m c dest (lines.take k) r s
    | none =>
      let t := placePin n (mixPin n c o frames taps) s
      if k + 1 < lines.length then setStage c (.grant (k + 1)) t
      else
        pump m ((t.modCtx c fun x => { x with phase := .moving, stage := none }).setMover m
          (some { freshMover c with runs := mixRuns o frames taps }))

/-! ### The end of moving (R123, R124) -/

/-- The lower of the overtaken tap remembered and the lowest one found overtaken at this line. -/
def lowerTap : Option Nat → Option Nat → Option Nat
  | none, y => y
  | x, none => x
  | some x, some y => some (min x y)

/-- The lowest-numbered tap on line `n`, counted from 0, whose window start lies below the line's overtake bound
(R104, R123). -/
def overtakenOn (n : LineId) (o : Operation) (taps : List MixTap) (s : State) : Option Nat :=
  ((tapsOn n taps o.starts).find? fun x => decide (x.2 < overtakeBound (s.line n) (movingFrames n s))).map Prod.fst

/-- The status of a MIX after its last source line: DATA_ERROR, then OVERTAKEN, then OK, with the values of R124; the
position of OK is that of a host destination. -/
def mixResult (mv : Mover) (o : Operation) : Settled :=
  match mv.firstBad, mv.overtaken with
  | some x, _ => ⟨.dataError, x.1, x.2⟩
  | none, some i => ⟨.overtaken, o.starts.getD i 0, mv.clips⟩
  | none, none => ⟨.ok, o.starts.headD 0, mv.clips⟩

/-- The status has been decided: with a host destination the MIX is DONE, with a line destination its end there comes
next, as a commit or an abandoned write (log 14). -/
def mixDecided (m : MoverId) (c : CtxId) (dest : Option LineId) (r : Settled) (s : State) : State :=
  match dest with
  | none => finish c r.status r.pos r.aux (s.setMover m none)
  | some _ => setStage c (.destination r.status r.pos r.aux) s

/-- Visit `k` of the end of moving, to the `k`-th distinct source line (R123). -/
def endVisit (m : MoverId) (mv : Mover) (c : CtxId) (o : Operation) (dest : Option LineId) (taps : List MixTap)
    (k : Nat) (s : State) : State :=
  let lines := firstAppearances (taps.map MixTap.line)
  match lines[k]? with
  | none => s
  | some n =>
    let mv' := { mv with overtaken := lowerTap mv.overtaken (overtakenOn n o taps s) }
    let t := removePin n c (s.setMover m (some mv'))
    if k + 1 < lines.length then setStage c (.ending (k + 1)) t else mixDecided m c dest (mixResult mv' o) t

/-- MIX_LINE_VISIT (R113): the next visit of the MIX in a context, whichever pass it is in. -/
def execMixLineVisit (c : CtxId) (s : State) : Answer :=
  match s.ctx c with
  | none => notDue s
  | some o =>
    match o.body with
    | some (.mix dest _ frames wait taps) =>
      match o.stage with
      | some (.shape i) => took (shapeVisit c dest frames taps i s)
      | some (.place i) => took (placeVisit c o dest frames wait taps i s)
      | some (.wake i) => took (wakeVisit c o dest frames taps i s)
      | some .join =>
        match dest with
        | some n => took (joinVisit c o n frames s)
        | none => notDue s
      | some (.grant k) =>
        match moverOf c s with
        | some m => took (grantVisit m c o dest frames taps k s)
        | none => notDue s
      | some (.ending k) =>
        match moverOf c s with
        | some m =>
          match s.mover m with
          | some mv => took (endVisit m mv c o dest taps k s)
          | none => notDue s
        | none => notDue s
      | some (.destination ..) => notDue s
      | none => notDue s
    | _ => notDue s

/-- A MIX's mover has read every run whole, and handed over its whole output or stored it (R123). -/
def mixMoved (m : MoverId) (mv : Mover) (b : Body) (s : State) : Bool :=
  runsRead s mv && settledMover m s
    && match destOf b with
      | none => decide (mv.hostDone = outputBytes s b)
      | some n => decide (mv.written = framesOf b * frameSize (s.line n))

/-- MIX_END_OF_MOVING (R123): the end of moving begins, at the first of the MIX's source lines. -/
def execMixEndOfMoving (m : MoverId) (s : State) : Answer :=
  match s.mover m with
  | none => notDue s
  | some mv =>
    match s.ctx mv.ctx with
    | none => notDue s
    | some o =>
      match o.body with
      | some (.mix dest addr frames wait taps) =>
        if o.phase = .moving ∧ o.stage = none ∧ mixMoved m mv (.mix dest addr frames wait taps) s = true then
          took (endVisit m mv mv.ctx o dest taps 0 s)
        else notDue s
      | _ => notDue s

end Sys2Proof.Machine
end

