-- ==== Sys2Proof/Machine/Grants.lean ====
section
/-! DEFINITION. The mover arbiter and what each kind does at its grant; the report write of a query (R136 to R138,
R156 to R158). -/

namespace Sys2Proof.Machine

/-- The rank of a READY operation (R157): ring 0 above priority level 3, then by level. -/
def rankOf (c : CtxId) (s : State) : Nat :=
  match s.ctx c with
  | none => 0
  | some o => if o.ring = 0 then 4 else (s.ring o.ring).prio

/-- The best of the READY operations: the highest rank, among equals the one READY first (R157). -/
def bestOf (s : State) : List CtxId → Option CtxId
  | [] => none
  | c :: cs =>
    match bestOf s cs with
    | none => some c
    | some d => if rankOf c s < rankOf d s then some d else some c

/-- A free mover, the lowest-numbered (log 10). -/
def freeMover (s : State) : Option MoverId := (List.finRange 4).find? fun m => (s.mover m).isNone

/-- A writer without a re-check becomes MOVING within the grant (R79, R80, R158). -/
def grantWriter (m : MoverId) (c : CtxId) (s : State) : State :=
  pump m ((s.setPhase c .moving).setMover m (some (freshMover c)))

/-- A query has its report gathered and becomes MOVING (R136, R137). -/
def grantQuery (m : MoverId) (c : CtxId) (report : List Byte) (pos aux : Nat) (s : State) : State :=
  (s.setPhase c .moving).setMover m (some { freshMover c with report := some (report, pos, aux) })

/-- The owner of the operation in context `c` takes the grant of mover `m` (R158). -/
def takeGrant (m : MoverId) (c : CtxId) (o : Operation) (b : Body) (s : State) : State :=
  match b with
  | .deposit .. => grantWriter m c s
  | .skip .. => grantWriter m c s
  | .tap n _ frames .. => grantTap m n c o frames s
  | .mix dest _ frames _ taps =>
    grantVisit m c o dest frames taps 0 ((setStage c (.grant 0) s).setMover m (some (freshMover c)))
  | .queryLine n _ =>
    let l := s.line n
    grantQuery m c (lineReport n l) l.w (lineCode l.state) s
  | .queryStore _ => grantQuery m c (storeReport s.store) 0 (blocksOf s.store.freeExts) s
  | .openLine .. | .closeLine .. | .setLine .. | .createRing .. | .deleteRing .. | .pauseRing .. | .resumeRing ..
  | .createResponse .. | .deleteResponse .. => s

/-- MOVER_GRANT (R157, R158): a free mover is granted to the best READY operation, which leaves the candidates. -/
def execMoverGrant (s : State) : Answer :=
  match freeMover s, bestOf s s.sched.ready with
  | some m, some c =>
    match s.ctx c with
    | none => notDue s
    | some o =>
      match o.body with
      | none => notDue s
      | some b => took (takeGrant m c o b (leaveReady c s))
  | _, _ => notDue s

/-- The host write of a query's report (R136, R137). -/
def reportWrites (b : Body) (bytes : List Byte) : List HostWrite := splitWrite .report (bufferOf b) bytes

/-- REPORT_WRITE (R138): a query's mover hands over its report, or waits for a place; then the query is DONE. -/
def execReportWrite (m : MoverId) (s : State) : Answer :=
  match s.mover m with
  | none => notDue s
  | some mv =>
    match mv.report, (s.ctx mv.ctx).bind Operation.body with
    | some (bytes, pos, aux), some b =>
      let ws := reportWrites b bytes
      if hasPlace (.report m) ws.length s then
        took (pumpAll (finish mv.ctx .ok pos aux ((takePlace (.report m) ws s).setMover m none)))
      else took (awaitPlace (.report m) s)
    | _, _ => notDue s

end Sys2Proof.Machine
end

