-- ==== Sys2Proof/Machine/HostPort.lean ====
section
/-! DEFINITION. The Host Port's link side: message configuration, request permission, the host write queue
(R161, R162). -/

namespace Sys2Proof.Machine

/-- A vector's mask is set or cleared; clearing it turns a set pending mark into one message (R162; messages disabled:
log 24). -/
def setMask (r : RespId) (masked : Bool) (s : State) : State :=
  let v := s.host.vectors.get r
  if masked then s.setHost { s.host with vectors := s.host.vectors.set r { v with masked := true } }
  else
    let t := s.setHost { s.host with vectors := s.host.vectors.set r { v with masked := false, pending := false } }
    if v.pending then sendMessage r t else t

/-- What one configuration access sets (R162). -/
def configureMessages (c : MessageSetting) (s : State) : State :=
  match c with
  | .address r a =>
    s.setHost { s.host with vectors := s.host.vectors.set r { s.host.vectors.get r with addr := a } }
  | .data r v =>
    s.setHost { s.host with vectors := s.host.vectors.set r { s.host.vectors.get r with data := v } }
  | .mask r b => setMask r b s
  | .enable b => s.setHost { s.host with msgEnable := b }

/-- MESSAGE_CONFIGURATION (R162). -/
def execMessageConfiguration (c : MessageSetting) (s : State) : Answer :=
  if s.host.linkUp then took (configureMessages c s) else notDue s

/-- REQUEST_PERMISSION_CHANGE (R161): held reads are issued in order when permission returns. R161 does not order them
among the held writes: every held read goes in this step, ahead of every write of the host write queue (DESIGN CHOICE,
log 48). -/
def execRequestPermissionChange (granted : Bool) (s : State) : Answer :=
  if s.host.linkUp then
    let t := s.setHost { s.host with permitted := granted }
    took (if granted then issueReads t else t)
  else notDue s

/-- WRITE_UNDELIVERABLE_REPORT (R161): the Host Port takes no action. -/
def execWriteUndeliverableReport (s : State) : Answer := .next s

/-- HOST_WRITE_ISSUE (R161): the oldest queued write is issued, and the place it frees goes to the write that has
waited longest. -/
def execHostWriteIssue (s : State) : Answer :=
  match s.host.writeQ with
  | [] => notDue s
  | x :: rest =>
    if canIssue s then
      let r := letIn rest s.host.waiters
      took (pumpAll { (s.setHost { s.host with writeQ := r.1, waiters := r.2 }) with link := s.link ++ [.write x] })
    else notDue s

end Sys2Proof.Machine
end

