-- ==== Sys2Proof/Machine/LineControl.lean ====
section
/-! DEFINITION. The line control records: opening, closing, changing and inspecting lines (R127 to R139). -/

namespace Sys2Proof.Machine

/-! ### OPEN_LINE -/

/-- The entry of a line just opened (R128). -/
def openedLine (channels : Nat) (policy : Policy) (lap : LapSetting) (cap : Nat) (extents : List Extent) : Line :=
  { Line.freeLine with
    state := .opened
    channels := channels
    policy := policy
    lap := lap
    cap := cap
    extents := extents }

/-- The start of an OPEN_LINE (R127, R128). -/
def openLine (n : LineId) (c : CtxId) (channels : Nat) (policy : Policy) (lap : LapSetting) (cap : Nat) (s : State) :
    State :=
  let l := s.line n
  if l.state ≠ .free then finish c .lineBusy 0 (lineCode l.state) s
  else if s.store.state = .fault then finish c .storeFault 0 0 s
  else match allocate (blocksNeeded cap channels) s.store.freeExts with
    | none => finish c .noSpace 0 (blocksNeeded cap channels) s
    | some (taken, rest) =>
      finish c .ok 0 taken.length
        ((s.setStore { s.store with freeExts := rest }).setLine n (openedLine channels policy lap cap taken))

/-- OPEN_LINE (R127). -/
def execOpenLine (s : State) : Answer :=
  match nextStart 0 s with
  | some (c, .openLine n channels policy lap cap) => took (openLine n c channels policy lap cap s)
  | _ => notDue s

/-! ### CLOSE_LINE -/

/-- A pending LAP notice of a line is withdrawn from its post queue (R18, R129). -/
def withdrawLap (n : LineId) (s : State) : State :=
  (s.setPosts (s.resp.posts.filter fun x => decide (x.item ≠ .lap n))).setLine n { s.line n with lapPending := false }

/-- Operations end ABORTED, in the order given (R129, R59). -/
def abortAll (cs : List CtxId) (s : State) : State := cs.foldl (fun t c => finish c .aborted 0 0 t) s

/-- The deadlines of operations leave the Park Timer (R95). -/
def dropDeadlines (cs : List CtxId) (s : State) : State :=
  s.setParkTimer (s.parkTimer.filter fun x => decide (x.1 ∉ cs))

/-- The operations on a line's park list, front first. -/
def parkedOn (n : LineId) (s : State) : List CtxId := (s.line n).park.map Parked.ctx

/-- Every entry of the closing line's park list leaves it and ends ABORTED (R129, step 3). -/
def abortParked (n : LineId) (s : State) : State :=
  abortAll (parkedOn n s) (dropDeadlines (parkedOn n s) (s.setLine n { s.line n with park := [] }))

/-- The writers a close aborts and those it leaves (R129, step 4): an active writer that is READY or MOVING stays. -/
def closeSplit (n : LineId) (s : State) : List Writer × List Writer :=
  match (s.line n).writers with
  | [] => ([], [])
  | x :: xs => if s.inPhase x.ctx .guardWait then (x :: xs, []) else (xs, [x])

/-- Writers leave the closing line's write queue and end ABORTED, head first (R129, step 4). -/
def abortWriters (n : LineId) (s : State) : State :=
  let r := closeSplit n s
  abortAll (r.1.map Writer.ctx) (s.setLine n { s.line n with writers := r.2 })

/-- Whether a close of line `n` gives an operation a closed mark (R115, R129 step 5). -/
def getsMark (n : LineId) (o : Operation) : Bool :=
  match o.body with
  | some (.mix dest _ _ _ taps) =>
    (decide (dest = some n) || taps.any fun t => decide (t.line = n)) && match o.phase with
      | .passing | .parked | .queued | .guardWait | .ready => true
      | .waiting | .moving | .acting | .done => false
  | some (.tap k ..) => decide (k = n) && decide (o.phase = .ready)
  | _ => false

/-- Closed marks are given (R129, step 5). -/
def giveMarks (n : LineId) (s : State) : State :=
  { s with sched := { s.sched with
      ctxs := s.sched.ctxs.map fun x => x.map fun o => if getsMark n o then { o with marks := n :: o.marks } else o } }

/-- The start of a CLOSE_LINE (R129). -/
def closeLine (n : LineId) (c : CtxId) (s : State) : State :=
  let l := s.line n
  if l.state ≠ .opened then finish c .lineBusy 0 (lineCode l.state) s
  else
    let ended := l.park.length + (closeSplit n s).1.length
    let s1 := withdrawLap n (s.setLine n { l with state := .closing })
    let s2 := abortWriters n (abortParked n s1)
    let s3 := (giveMarks n s2).modCtx c fun o => { o with phase := .acting, ended := ended }
    dropItemWait (drainTest n s3)

/-- CLOSE_LINE (R129). -/
def execCloseLine (s : State) : Answer :=
  match nextStart 0 s with
  | some (c, .closeLine n) => took (closeLine n c s)
  | _ => notDue s

/-- LINE_DRAIN_COMPLETE (R132): the drain test of a CLOSING line; the events that let go of a line make it
themselves (log 15). -/
def execLineDrainComplete (n : LineId) (s : State) : Answer :=
  if (s.line n).state = .closing ∧ drained (s.line n) = true then took (drainTest n s) else notDue s

/-! ### SET_LINE -/

/-- The head of a line's write queue, if it is in a phase. -/
def headInPhase (n : LineId) (p : Phase) (s : State) : Option CtxId :=
  match (s.line n).writers with
  | [] => none
  | x :: _ => if s.inPhase x.ctx p then some x.ctx else none

/-- The policy becomes FREE_RUNNING: a writer in GUARD_WAIT becomes READY at once (R13, R15). -/
def freeRun (n : LineId) (s : State) : State :=
  let t := s.setLine n { s.line n with policy := .freeRunning }
  match headInPhase n .guardWait s with
  | none => t
  | some c => makeReady c t

/-- The policy becomes GUARDED at once: a READY active writer is given the guard check, and goes back to GUARD_WAIT if
it fails (R15). -/
def guardNow (n : LineId) (s : State) : State :=
  let t := s.setLine n { s.line n with policy := .guarded }
  match headInPhase n .ready s with
  | none => t
  | some c => if guardPasses (t.line n) then t else (leaveReady c t).setPhase c .guardWait

/-- A change to GUARDED is held: the active writer is MOVING (R15), or a mover is bound to it for its re-check
(log 17). -/
def mustHold (n : LineId) (s : State) : Bool :=
  (headInPhase n .moving s).isSome ||
    match headInPhase n .ready s with
    | none => false
    | some c => (moverOf c s).isSome

/-- The start of a SET_LINE (R134, R15). -/
def setLineSettings (n : LineId) (c : CtxId) (policy : Policy) (lap : LapSetting) (s : State) : State :=
  let l := s.line n
  if l.state ≠ .opened then finish c .lineBusy 0 (lineCode l.state) s
  else
    let s1 := s.setLine n { l with lap := lap }
    if policy = l.policy then finish c .ok l.w 0 s1
    else match policy with
      | .freeRunning => finish c .ok l.w 0 (freeRun n s1)
      | .guarded =>
        if mustHold n s1 then (s1.setLine n { s1.line n with held := true }).setPhase c .acting
        else finish c .ok l.w 0 (guardNow n s1)

/-- SET_LINE (R134). -/
def execSetLine (s : State) : Answer :=
  match nextStart 0 s with
  | some (c, .setLine n policy lap) => took (setLineSettings n c policy lap s)
  | _ => notDue s

/-- SET_LINE_HELD_COMPLETE (R15): a held change takes hold once no moving writer holds it; the events that end such a
writer make it take hold themselves (log 15). -/
def execSetLineHeldComplete (n : LineId) (s : State) : Answer :=
  if (s.line n).held = true ∧ mustHold n s = false then
    let t := applyHeld n s
    took (match headInPhase n .ready t with
      | none => t
      | some c => if guardPasses (t.line n) then t else (leaveReady c t).setPhase c .guardWait)
  else notDue s

/-! ### Queries -/

/-- QUERY_LINE (R136): it becomes READY at its start. -/
def execQueryLine (s : State) : Answer :=
  match nextStart 0 s with
  | some (c, .queryLine ..) => took (makeReady c s)
  | _ => notDue s

/-- QUERY_STORE (R137): it becomes READY at its start. -/
def execQueryStore (s : State) : Answer :=
  match nextStart 0 s with
  | some (c, .queryStore _) => took (makeReady c s)
  | _ => notDue s

end Sys2Proof.Machine
end

