-- ==== Sys2Proof/Machine/RingControl.lean ====
section
/-! DEFINITION. The control records of command rings and response rings (R58 to R61, R142, R143). -/

namespace Sys2Proof.Machine

/-! ### Command rings -/

/-- The entry CREATE_RING fills; a RING_STOPPED notice pending from an earlier incarnation stays (R52, R58). -/
def createdRing (logSize priority window : Nat) (resp : RespId) (base : HostAddr) (old : CmdRing) : CmdRing :=
  { CmdRing.disabledRing with
    state := .running
    base := base
    size := 2 ^ logSize
    prio := priority
    windowSize := window
    resp := resp
    notice := old.notice }

/-- The start of a CREATE_RING (R58). -/
def createRing (c : CtxId) (k : RingId) (x : CmdRing) (s : State) : State :=
  if (s.ring k).state = .disabled ∧ (s.respRing x.resp).state = .active then finish c .ok 0 0 (s.setRing k x)
  else finish c .ringBusy 0 0 s

/-- CREATE_RING (R58). -/
def execCreateRing (s : State) : Answer :=
  match nextStart 0 s with
  | some (c, .createRing k logSize priority window resp base) =>
    took (createRing c k (createdRing logSize priority window resp base (s.ring k)) s)
  | _ => notDue s

/-- The control context holds the DELETE_RING of ring `k` that is ACTING (R59). -/
def holdsDeleteRing (k : RingId) (s : State) : Bool :=
  match s.ctx 0 with
  | none => false
  | some o => decide (o.body = some (.deleteRing k)) && decide (o.phase = .acting)

/-- A DRAINING ring holds no context (R60). -/
def ringDrained (k : RingId) (s : State) : Bool := decide ((s.ring k).state = .draining) && heldContexts k s == 0

/-- The drain test of a ring (R60): a drained ring's entry is cleared and its DELETE_RING completes OK with the take
index as it stood. -/
def ringDrainTest (k : RingId) (s : State) : State :=
  if ringDrained k s then
    let t := s.setRing k { CmdRing.disabledRing with notice := (s.ring k).notice }
    if holdsDeleteRing k s then finish 0 .ok 0 (s.ring k).take t else t
  else s

/-- A WAITING or PARKED record of a ring being deleted ends ABORTED; a PARKED one leaves its park list (R59). -/
def abortRecord (s : State) (c : CtxId) : State :=
  match s.ctx c with
  | none => s
  | some o =>
    match o.phase with
    | .waiting => finish c .aborted 0 0 s
    | .parked =>
      match parkedLine o with
      | none => finish c .aborted 0 0 s
      | some n => drainTest n (finish c .aborted 0 0 (unpark n c s))
    | _ => s

/-- The start of a DELETE_RING (R59). -/
def deleteRing (c : CtxId) (k : RingId) (s : State) : State :=
  let x := s.ring k
  if x.state = .disabled ∨ x.state = .draining then finish c .ringBusy 0 0 s
  else
    let s1 := (s.setRing k { x with state := .draining }).setPhase c .acting
    ringDrainTest k (x.window.foldl abortRecord s1)

/-- DELETE_RING (R59). -/
def execDeleteRing (s : State) : Answer :=
  match nextStart 0 s with
  | some (c, .deleteRing k) => took (deleteRing c k s)
  | _ => notDue s

/-- RING_DRAIN_COMPLETE (R60; log 16). -/
def execRingDrainComplete (k : RingId) (s : State) : Answer :=
  if ringDrained k s then took (ringDrainTest k s) else notDue s

/-- The start of a PAUSE_RING or RESUME_RING (R61): from one state to another, or RING_BUSY. -/
def switchRing (c : CtxId) (k : RingId) (was becomes : RingState) (s : State) : State :=
  if (s.ring k).state = was then finish c .ok 0 0 (s.setRing k { s.ring k with state := becomes })
  else finish c .ringBusy 0 0 s

/-- PAUSE_RING (R61). -/
def execPauseRing (s : State) : Answer :=
  match nextStart 0 s with
  | some (c, .pauseRing k) => took (switchRing c k .running .paused s)
  | _ => notDue s

/-- RESUME_RING (R61). -/
def execResumeRing (s : State) : Answer :=
  match nextStart 0 s with
  | some (c, .resumeRing k) => took (switchRing c k .paused .running s)
  | _ => notDue s

/-! ### Response rings -/

/-- The start of a CREATE_RESPONSE (R142). -/
def createResponse (c : CtxId) (r : RespId) (x : RespRing) (s : State) : State :=
  if (s.respRing r).state = .absent then finish c .ok 0 0 (s.setRespRing r x) else finish c .ringBusy 0 0 s

/-- CREATE_RESPONSE (R142). -/
def execCreateResponse (s : State) : Answer :=
  match nextStart 0 s with
  | some (c, .createResponse r logSize count interrupt time base) =>
    took (createResponse c r (newRespRing base logSize count interrupt time) s)
  | _ => notDue s

/-- The start of a DELETE_RESPONSE (R143). -/
def deleteResponse (c : CtxId) (r : RespId) (s : State) : State :=
  if (s.respRing r).state = .absent then finish c .ringBusy 0 0 s
  else match boundRings r s with
    | k :: _ => finish c .ringBusy 0 k.val s
    | [] =>
      dropItemWait
        (finish c .ok 0 (s.respRing r).fill ((discardPosts r s).setRespRing r RespRing.absentRing))

/-- DELETE_RESPONSE (R143). -/
def execDeleteResponse (s : State) : Answer :=
  match nextStart 0 s with
  | some (c, .deleteResponse r) => took (deleteResponse c r s)
  | _ => notDue s

end Sys2Proof.Machine
end

