-- ==== Sys2Proof/Machine/Dispatch.lean ====
section
/-! DEFINITION. The effect of each command, one arm per row of spec/opcode_table.json. -/

namespace Sys2Proof.Machine

/-- A command's effect on everything but the queue of waiting commands. -/
def exec (i : Instr) (s : State) : Host.Outcome State Fault Refusal :=
  match i with
  | .powerOnReset => Sys2Proof.Machine.execPowerOnReset s
  | .pinReset => Sys2Proof.Machine.execPinReset s
  | .linkReset lost => Sys2Proof.Machine.execLinkReset lost s
  | .enableSet upper => Sys2Proof.Machine.execEnableSet upper s
  | .enableClear upper => Sys2Proof.Machine.execEnableClear upper s
  | .configRegisterWrite reg v => Sys2Proof.Machine.execConfigRegisterWrite reg v s
  | .idleDelayWrite v => Sys2Proof.Machine.execIdleDelayWrite v s
  | .registerWrite offset width v => Sys2Proof.Machine.execRegisterWrite offset width v s
  | .postWrite k v => Sys2Proof.Machine.execPostWrite k v s
  | .releaseWrite r v => Sys2Proof.Machine.execReleaseWrite r v s
  | .messageConfiguration x => Sys2Proof.Machine.execMessageConfiguration x s
  | .requestPermissionChange granted => Sys2Proof.Machine.execRequestPermissionChange granted s
  | .writeUndeliverableReport => Sys2Proof.Machine.execWriteUndeliverableReport s
  | .calibrationComplete succeeded => Sys2Proof.Machine.execCalibrationComplete succeeded s
  | .refreshDue => Sys2Proof.Machine.execRefreshDue s
  | .ordinaryRefresh => Sys2Proof.Machine.execOrdinaryRefresh s
  | .forcedRefresh => Sys2Proof.Machine.execForcedRefresh s
  | .refreshComplete => Sys2Proof.Machine.execRefreshComplete s
  | .storeAccessStart => Sys2Proof.Machine.execStoreAccessStart s
  | .storeAccessComplete flips => Sys2Proof.Machine.execStoreAccessComplete flips s
  | .selfRefreshExitEnd => Sys2Proof.Machine.execSelfRefreshExitEnd s
  | .fetchGrant => Sys2Proof.Machine.execFetchGrant s
  | .hostReadComplete n bytes => Sys2Proof.Machine.execHostReadComplete n bytes s
  | .hostReadError n => Sys2Proof.Machine.execHostReadError n s
  | .hostReadTimeout n => Sys2Proof.Machine.execHostReadTimeout n s
  | .deposit k => Sys2Proof.Machine.execDeposit k s
  | .skip k => Sys2Proof.Machine.execSkip k s
  | .tap k => Sys2Proof.Machine.execTap k s
  | .mix k => Sys2Proof.Machine.execMix k s
  | .mixLineVisit c => Sys2Proof.Machine.execMixLineVisit c s
  | .openLine => Sys2Proof.Machine.execOpenLine s
  | .closeLine => Sys2Proof.Machine.execCloseLine s
  | .lineDrainComplete n => Sys2Proof.Machine.execLineDrainComplete n s
  | .setLine => Sys2Proof.Machine.execSetLine s
  | .setLineHeldComplete n => Sys2Proof.Machine.execSetLineHeldComplete n s
  | .queryLine => Sys2Proof.Machine.execQueryLine s
  | .queryStore => Sys2Proof.Machine.execQueryStore s
  | .reportWrite m => Sys2Proof.Machine.execReportWrite m s
  | .createRing => Sys2Proof.Machine.execCreateRing s
  | .deleteRing => Sys2Proof.Machine.execDeleteRing s
  | .ringDrainComplete k => Sys2Proof.Machine.execRingDrainComplete k s
  | .pauseRing => Sys2Proof.Machine.execPauseRing s
  | .resumeRing => Sys2Proof.Machine.execResumeRing s
  | .createResponse => Sys2Proof.Machine.execCreateResponse s
  | .deleteResponse => Sys2Proof.Machine.execDeleteResponse s
  | .moverGrant => Sys2Proof.Machine.execMoverGrant s
  | .commit m => Sys2Proof.Machine.execCommit m s
  | .writerAbandoned m => Sys2Proof.Machine.execWriterAbandoned m s
  | .tapEndOfMoving m => Sys2Proof.Machine.execTapEndOfMoving m s
  | .mixEndOfMoving m => Sys2Proof.Machine.execMixEndOfMoving m s
  | .parkDeadlineExpiry c => Sys2Proof.Machine.execParkDeadlineExpiry c s
  | .itemWrite => Sys2Proof.Machine.execItemWrite s
  | .moderationTimeExpiry r => Sys2Proof.Machine.execModerationTimeExpiry r s
  | .hostWriteIssue => Sys2Proof.Machine.execHostWriteIssue s
  | .idleDeadlineExpiry => Sys2Proof.Machine.execIdleDeadlineExpiry s
  | .controlWrite v => Sys2Proof.Machine.execControlWrite v s
  | .linkReturn => Sys2Proof.Machine.execLinkReturn s

end Sys2Proof.Machine
end

