-- ==== Sys2Proof/Machine/Step.lean ====
section
/-! DEFINITION. One step: the command at the front of the queue, or a microsecond of time when none waits. -/

namespace Sys2Proof.Machine

/-- A microsecond passes with no command waiting (log 2): the time base counts it, and so does the store's interval
timer while it runs (R36). -/
def tick (s : State) : State :=
  { s with
    now := s.now + 1
    store := if timerRuns s then { s.store with timer := s.store.timer + 10 } else s.store }

/-- One step: the front command is taken from the queue and has its effect; on an empty queue time passes. -/
def step (s : State) : Host.Outcome State Fault Refusal :=
  match s.pending with
  | [] => .next (tick s)
  | c :: rest => exec c { s with pending := rest }

/-- The state with the command a word spells put at the front of the queue; no row of the opcode table has bits, so no
word spells one (log 32). -/
def State.withFetchWord (s : State) (nbits w : Nat) : State :=
  match Sys2Proof.decodeTableWord nbits w with
  | none => s
  | some c => { s with pending := c :: s.pending }

end Sys2Proof.Machine
end

