-- ==== Sys2Proof/WellFormed.lean ====
section
/-! DEFINITION. Which records and which commands are well formed: the ranges of R66 to R69, and for each command the
operands its row of the table covers. -/

namespace Sys2Proof

/-- A position or delay field (R66). -/
def wfPosition (n : Nat) : Bool := decide (n ≤ Config.maxPosition)

/-- A frame count (R65, FRAMES). -/
def wfFrames (n : Nat) : Bool := decide (1 ≤ n) && decide (n ≤ 65536)

/-- A wait (R65, WAIT). -/
def wfWait (n : Nat) : Bool := decide (n ≤ 4000000)

/-- Lap settings: the target is 0 while notices are off (R65, LAP). -/
def wfLap (l : LapSetting) : Bool := l.on || decide (l.target = 0)

/-- An address aligned to `n` (R65, ALIGN). -/
def wfAligned (n : Nat) (a : HostAddr) : Bool := a.toNat % n == 0

/-- The fields of a body are within the ranges of R66 to R69. -/
def wfBody : Body → Bool
  | .deposit _ addr frames => wfAligned 4 addr && wfFrames frames
  | .skip _ frames => wfFrames frames
  | .tap _ addr frames wait _ fld _ => wfAligned 4 addr && wfFrames frames && wfWait wait && wfPosition fld
  | .mix dest addr frames wait taps =>
      (match dest with | some _ => decide (addr = 0) | none => wfAligned 4 addr)
        && wfFrames frames && wfWait wait && decide (1 ≤ taps.length) && decide (taps.length ≤ 8)
        && taps.all fun t => wfPosition t.field
  | .openLine _ channels _ lap cap =>
      decide (1 ≤ channels) && decide (channels ≤ 16) && wfLap lap && decide (1 ≤ cap) && decide (cap ≤ 16777216)
  | .closeLine _ => true
  | .setLine _ _ lap => wfLap lap
  | .queryLine _ addr => wfAligned 16 addr
  | .queryStore addr => wfAligned 16 addr
  | .createRing ring logSize priority window _ base =>
      decide (ring ≠ 0) && decide (4 ≤ logSize) && decide (logSize ≤ 12) && decide (priority ≤ 3)
        && decide (1 ≤ window) && decide (window ≤ 32) && wfAligned 64 base
  | .deleteRing ring => decide (ring ≠ 0)
  | .pauseRing ring => decide (ring ≠ 0)
  | .resumeRing ring => decide (ring ≠ 0)
  | .createResponse ring logSize count _ time base =>
      decide (ring ≠ 0) && decide (4 ≤ logSize) && decide (logSize ≤ 13) && decide (1 ≤ count) && decide (count ≤ 255)
        && decide (time ≤ 65535) && wfAligned 64 base
  | .deleteResponse ring => decide (ring ≠ 0)

/-- A byte offset of the register window that R73 does not list, or IDENT or STATUS, whose writes are ignored
(R163). -/
def writeIgnored (offset : Nat) : Bool :=
  offset % 4 != 0 || offset == 0 || offset == 4 || offset == 0x1C || (decide (0x30 ≤ offset) && decide (offset < 0x40))
    || decide (0x90 ≤ offset)

/-- The operands a command's row covers: the rings of each kind's records, the ignored writes of REGISTER_WRITE, the
words of the store, the lengths of the part's host reads. -/
def wfInstr : Instr → Bool
  | .registerWrite offset width _ => decide (width ≠ .word) || writeIgnored offset.toNat
  | .storeAccessComplete flips => flips.all fun x => decide (x.1 < Config.storeBytes / Config.wordBytes)
  | .hostReadComplete _ bytes => decide (4 ≤ bytes.length) && decide (bytes.length ≤ Config.transferBytes)
  | .deposit ring => decide (ring ≠ 0)
  | .skip ring => decide (ring ≠ 0)
  | .tap ring => decide (ring ≠ 0)
  | .mix ring => decide (ring ≠ 0)
  | .mixLineVisit ctx => decide (ctx ≠ 0)
  | .parkDeadlineExpiry ctx => decide (ctx ≠ 0)
  | .ringDrainComplete ring => decide (ring ≠ 0)
  | .powerOnReset | .pinReset | .linkReset _ | .enableSet _ | .enableClear _ | .configRegisterWrite .. | .idleDelayWrite _
  | .postWrite .. | .releaseWrite .. | .messageConfiguration _ | .requestPermissionChange _ | .writeUndeliverableReport
  | .calibrationComplete _ | .refreshDue | .ordinaryRefresh | .forcedRefresh | .refreshComplete | .storeAccessStart
  | .selfRefreshExitEnd | .fetchGrant | .hostReadError _ | .hostReadTimeout _ | .openLine | .closeLine
  | .lineDrainComplete _ | .setLine | .setLineHeldComplete _ | .queryLine | .queryStore | .reportWrite _ | .createRing
  | .deleteRing | .pauseRing | .resumeRing | .createResponse | .deleteResponse | .moverGrant | .commit _
  | .writerAbandoned _ | .tapEndOfMoving _ | .mixEndOfMoving _ | .itemWrite | .moderationTimeExpiry _ | .hostWriteIssue
  | .idleDeadlineExpiry | .controlWrite _ | .linkReturn => true

end Sys2Proof
end

