-- ==== Sys2Proof/Safety.lean ====
section
/-! DEFINITION. What claims are stated in: the invariants every step keeps, what a command leaves alone block by block,
the end of an operation, and what each kind of reset clears and keeps. -/

namespace Sys2Proof.Machine

/-! ### Invariants -/

/-- The laws of a line entry (R2, R3, R6, R8, R16): F is at most W; W with every queued frame stays within the position
limit; every queued writer fits the line; the park list rises by window end, each above W; and a FREE line holds
nothing (but for pins, whose absence rests on the laws of the contexts). -/
def LineOk (l : Line) : Prop :=
  l.f ≤ l.w ∧ l.w + queuedFrames l ≤ Config.maxPosition ∧ (∀ x ∈ l.writers, x.frames ≤ l.cap) ∧
    l.park.Pairwise (fun x y => x.windowEnd ≤ y.windowEnd) ∧ (∀ x ∈ l.park, l.w < x.windowEnd) ∧
    (l.state = .free → { l with pins := [] } = Line.freeLine)

/-- Every line entry is lawful. -/
def LinesOk (s : State) : Prop := ∀ n, LineOk (s.line n)

/-- The store's memory is in its canonical form, the debt within 8, the two counts within their limit (R20, R33, R36,
R37). -/
def StoreOk (s : State) : Prop :=
  Memory.wf s.store.cells = true ∧ s.store.debt ≤ Config.maxDebt ∧ s.store.corrected ≤ Config.countMax ∧
    s.store.forced ≤ Config.countMax

/-- A lawful free extent table (R24): ascending, every extent of at least one block, no two touching. -/
def FreeTableOk (es : List Extent) : Prop :=
  es.Pairwise (fun d e => d.start + d.count < e.start) ∧ ∀ e ∈ es, 1 ≤ e.count

/-- The extents held by lines (R1). -/
def heldExtents (s : State) : List Extent := s.lines.rows.flatMap Line.extents

/-- The laws of the store's blocks (R24): the free extent table is lawful; the extents held by lines and the free
extents lie in the store, hold its 262,144 blocks together, and no block lies in two of them; a FREE line holds none. -/
def BlocksOk (s : State) : Prop :=
  FreeTableOk s.store.freeExts ∧
    (heldExtents s ++ s.store.freeExts).Pairwise
      (fun d e => d.start + d.count ≤ e.start ∨ e.start + e.count ≤ d.start) ∧
    (∀ e ∈ heldExtents s ++ s.store.freeExts, 1 ≤ e.count ∧ e.start + e.count ≤ Config.storeBlocks) ∧
    blocksOf (heldExtents s) + blocksOf s.store.freeExts = Config.storeBlocks ∧
    ∀ n, (s.line n).state = .free → (s.line n).extents = []

/-- Every record held in a context has its fields in range: it has passed decode (R50). -/
def RecordsOk (s : State) : Prop := ∀ c o b, s.ctx c = some o → o.body = some b → wfBody b = true

/-- The law of the contexts (R53, R54): a ring never holds more contexts than its window size, a DISABLED ring holds
none, and nothing is fetched before ENABLE has taken effect. -/
def ContextsOk (s : State) : Prop :=
  (∀ k, heldContexts k s ≤ (s.ring k).windowSize ∧ ((s.ring k).state = .disabled → heldContexts k s = 0)) ∧
    (s.host.enable ≠ .on → s.fetcher.fetch = none)

/-- The laws of the Response Unit (R151): the unreleased count never exceeds the size, and the indices lie within the
ring. -/
def RespOk (s : State) : Prop :=
  ∀ r, (s.respRing r).unreleased ≤ (s.respRing r).size ∧
    ((s.respRing r).state = .active → (s.respRing r).fill < (s.respRing r).size ∧ (s.respRing r).release < (s.respRing r).size)

/-- The host write queue holds at most its 64 places (R161). -/
def QueueOk (s : State) : Prop := s.host.writeQ.length ≤ Config.writeQueue

/-! ### What a command leaves alone -/

/-- The eight blocks of the part (00_scope.md). -/
inductive Block where
  | hostPort | ringFetcher | scheduler | lineTable | parkTimer | movers | storeController | responseUnit
  deriving DecidableEq, Repr

/-- A block's state is the same in both; of the Host Port, all but the quiescence state, which follows every event by
its own rule (R175). -/
def Same (b : Block) (s t : State) : Prop :=
  match b with
  | .hostPort => { t.host with quiesce := s.host.quiesce } = s.host ∧ t.link = s.link
  | .ringFetcher => t.fetcher = s.fetcher
  | .scheduler => t.sched = s.sched
  | .lineTable => t.lines = s.lines
  | .parkTimer => t.parkTimer = s.parkTimer
  | .movers => t.movers = s.movers
  | .storeController => t.store = s.store
  | .responseUnit => t.resp = s.resp

/-- Only the blocks listed have changed; neither time nor the queue of commands has. -/
def OnlyIn (bs : List Block) (s t : State) : Prop :=
  t.pending = s.pending ∧ t.now = s.now ∧ ∀ b, b ∉ bs → Same b s t

/-! ### The end of an operation -/

/-- The operation in context `c` has ended with a result (R55, R145, R151): while its ring's response ring is ACTIVE it
is DONE and its completion waits there, otherwise its context is free. R151 says so of a FAULTED ring; that an ABSENT
one discards the completion too is the model's reading (log 28). -/
def EndsWith (s : State) (c : CtxId) (r : Settled) (t : State) : Prop :=
  ∀ o, s.ctx c = some o →
    if (s.respRing (s.ring o.ring).resp).state = .active then
      (∃ q, t.ctx c = some q ∧ q.phase = .done ∧ q.result = some r ∧ q.tag = o.tag) ∧
        ⟨(s.ring o.ring).resp, .completion c⟩ ∈ t.resp.posts
    else t.ctx c = none

/-! ### What an event leaves of a line -/

/-- Line `n` as an event that lets go of it leaves it, `l` being its entry before the drain test (R6, R132): a CLOSING
line with no writer, no parked read and no pin is FREE, its extents returned and its CLOSE_LINE OK with the final W and
the count of the operations it ended; any other line is `l` and the store as it was. -/
def LineLeft (s : State) (n : LineId) (l : Line) (t : State) : Prop :=
  if l.state = .closing ∧ l.writers = [] ∧ l.park = [] ∧ l.pins = [] then
    t.line n = Line.freeLine ∧ t.store = { s.store with freeExts := returnExtents l.extents s.store.freeExts } ∧
      ∀ o, s.ctx 0 = some o → o.body = some (.closeLine n) → o.phase = .acting → EndsWith s 0 ⟨.ok, l.w, o.ended⟩ t
  else t.line n = l ∧ t.store = s.store

/-- The phase of the writer at the head of a queue when it becomes the active writer (R77). -/
def nextPhase (l : Line) : Phase := if l.policy = .guarded ∧ guardPasses l = false then .guardWait else .ready

/-- That writer, if it becomes READY. -/
def nextReady (l : Line) : List CtxId :=
  match l.writers with
  | [] => []
  | y :: _ => if nextPhase l = .ready then [y.ctx] else []

/-- A pin has been removed from line entry `l` (R13): the guard check, made again for a writer in GUARD_WAIT, releases
it to READY when it passes, and no other operation becomes READY. -/
def GuardRetested (s : State) (l : Line) (t : State) : Prop :=
  match l.writers with
  | [] => t.sched.ready = s.sched.ready
  | y :: _ =>
    if l.policy = .guarded ∧ s.inPhase y.ctx .guardWait = true ∧ guardPasses l = true then
      t.sched.ready = s.sched.ready ++ [y.ctx] ∧ t.ctx y.ctx = (s.ctx y.ctx).map fun q => { q with phase := .ready }
    else t.sched.ready = s.sched.ready

/-- A change to GUARDED that line `n` held has taken hold: its SET_LINE is OK with the line's W (R15, R134). -/
def HeldChangeMade (s : State) (n : LineId) (w : Nat) (t : State) : Prop :=
  (s.line n).held = true → ∀ o policy lap, s.ctx 0 = some o → o.body = some (.setLine n policy lap) →
    o.phase = .acting → EndsWith s 0 ⟨.ok, w, 0⟩ t

/-- The operation in context `c` is a TAP whose window starts at or above a bound (R97). -/
def tapStays (s : State) (bound : Nat) (c : CtxId) : Bool :=
  match s.ctx c with
  | none => false
  | some o =>
    match o.body with
    | some (.tap ..) => decide (bound ≤ o.starts.headD 0)
    | _ => false

/-- A sample of the frame at position `q` lies in a word of the store (R30, R34). -/
def sampleIn (l : Line) (q word : Nat) : Prop :=
  ∃ c, c < l.channels ∧ storeAddr l.extents (logicalByte l q (4 * c)) / 32 = word

/-! ### What a mover asks of the store next -/

/-- Mover `m` has nothing outstanding: no store access, no host write waiting for a place, no host read (R156, R161). -/
def NothingOut (m : MoverId) (s : State) : Prop :=
  (∀ a ∈ s.store.waiting, a.mover ≠ some m) ∧ (∀ a, s.store.busy = some (.access a) → a.mover ≠ some m) ∧
    (∀ ws, .data m ws ∉ s.host.waiters) ∧ ∀ x ∈ s.host.reads, ∀ k, x.requester ≠ .mover m k

/-- A mover's run has been read whole, each of its frames to the last byte (R101, R120). -/
def RunsWhole (s : State) (mv : Mover) : Prop :=
  ∀ r ∈ mv.runs, r.frames * frameSize (s.line r.line) ≤ r.data.length

/-- The bytes of a writer's run that are at hand, from its first: a DEPOSIT's are its completed host reads joined in
order, up to the first that has not come (R79); a MIX's what the Mix Unit has computed (R122). -/
def BytesAtHand (b : Body) (mv : Mover) (data : List Byte) : Prop :=
  match b with
  | .deposit .. =>
    ∃ parts : List (List Byte), data = parts.flatten ∧
      (∀ i bytes, parts[i]? = some bytes → mv.arrived.find? (fun x => decide (x.1 = i)) = some (i, bytes)) ∧
      ∀ x ∈ mv.arrived, x.1 ≠ parts.length
  | .mix .. => data = mv.out
  | _ => False

/-- The burst a writer's mover can ask for: it carries the run of positions W up to W + M - 1 on from the bytes stored so
far (R31, R79), with a SKIP's zeros (R80), or with a DEPOSIT's or MIX's bytes at those offsets of the run, once every one
of them is at hand (R79, R122). -/
def WritesNext (s : State) (m : MoverId) (mv : Mover) (b : Body) (a : Access) : Prop :=
  ∃ (n : LineId) (total : Nat) (bytes : List Byte), destOf b = some n ∧ total = framesOf b * frameSize (s.line n) ∧
    mv.written < total ∧ (a.addr, a.len) = burstAt (s.line n) (s.line n).w total mv.written ∧
    a = ⟨some m, 0, a.addr, a.len, some bytes⟩ ∧
    ((∃ M, b = .skip n M ∧ bytes = List.replicate a.len 0) ∨
      ∃ data, BytesAtHand b mv data ∧ mv.written + a.len ≤ data.length ∧
        bytes = (data.drop mv.written).take a.len)

/-- The burst a mover can ask for of the runs it reads: of those not yet read whole the one with the fewest bytes read,
the first of equals (DESIGN CHOICE, log 18), carried on from the bytes read so far (R31, R101, R120). -/
def ReadsNext (s : State) (m : MoverId) (mv : Mover) (a : Access) : Prop :=
  ∃ (i : Nat) (r : Run), mv.runs[i]? = some r ∧ r.data.length < r.frames * frameSize (s.line r.line) ∧
    (∀ (j : Nat) (q : Run), mv.runs[j]? = some q → q.data.length < q.frames * frameSize (s.line q.line) →
      r.data.length < q.data.length ∨ (r.data.length = q.data.length ∧ i ≤ j)) ∧
    (a.addr, a.len) = burstAt (s.line r.line) r.start (r.frames * frameSize (s.line r.line)) r.data.length ∧
    a = ⟨some m, i, a.addr, a.len, none⟩

/-- A mover asks for no store access: its operation is not MOVING or its end has begun (R123, R158), an access of its is
waiting or in progress (R32), a host write of its waits for a place (DEDUCED, log 25), or a read of its DEPOSIT has failed
(R86). -/
def HoldsBack (waiting : List Access) (m : MoverId) (mv : Mover) (o : Operation) (t : State) : Prop :=
  o.phase ≠ .moving ∨ o.stage.isSome = true ∨ (∃ a ∈ waiting, a.mover = some m) ∨
    (∃ a, t.store.busy = some (.access a) ∧ a.mover = some m) ∨ (∃ ws, .data m ws ∈ t.host.waiters) ∨
    mv.failedAt.isSome = true

/-- What mover `m`, left by an event as `mv` with operation `o` of record `b`, has asked of the store within it, `waiting`
being the accesses that waited before (R32): nothing where it holds back or no burst can be asked for, else one burst,
a write if its bytes are at hand and a read otherwise (the order of the two is the model's choice, log 18). -/
def AsksStore (waiting : List Access) (m : MoverId) (mv : Mover) (o : Operation) (b : Body) (t : State) : Prop :=
  (HoldsBack waiting m mv o t → t.store.waiting = waiting) ∧
  (¬HoldsBack waiting m mv o t →
    (∀ a, WritesNext t m mv b a → t.store.waiting = waiting ++ [a]) ∧
    ((∀ a, ¬WritesNext t m mv b a) →
      (∀ a, ReadsNext t m mv a → t.store.waiting = waiting ++ [a]) ∧
      ((∀ a, ¬ReadsNext t m mv a) → t.store.waiting = waiting)))

/-! ### What a visit and a record read of their lines and writers -/

/-- The lowest-numbered tap of a MIX on line `n` whose window start lies below a bound, counted from 0, if there is one
(R119, R123). -/
def LowestTapBelow (n : LineId) (taps : List MixTap) (starts : List Nat) (bound : Nat) : Option Nat → Prop
  | none => ∀ (i : Nat) (x : MixTap) (p : Nat), taps[i]? = some x → x.line = n → starts[i]? = some p → bound ≤ p
  | some i =>
    (∃ (x : MixTap) (p : Nat), taps[i]? = some x ∧ x.line = n ∧ starts[i]? = some p ∧ p < bound) ∧
      ∀ (j : Nat) (x : MixTap) (p : Nat), j < i → taps[j]? = some x → x.line = n → starts[j]? = some p → bound ≤ p

/-- A change of line `n` to GUARDED is held: the writer at the head of its queue is MOVING (R15), or READY with a mover
bound to it for its re-check (DESIGN CHOICE, log 17). -/
def HoldsChange (n : LineId) (s : State) : Prop :=
  ∃ (x : Writer) (xs : List Writer), (s.line n).writers = x :: xs ∧
    (s.inPhase x.ctx .moving = true ∨
      (s.inPhase x.ctx .ready = true ∧ ∃ (m : MoverId) (mv : Mover), s.mover m = some mv ∧ mv.ctx = x.ctx))

/-- A CLOSE_LINE of line `n` gives an operation a closed mark (R115, R129): a MIX that names the line as a tap's or as its
destination and is PASSING, PARKED, QUEUED, in GUARD_WAIT or READY, and a TAP of the line that is READY. -/
def TakesMark (n : LineId) (o : Operation) : Prop :=
  (∃ dest addr N wait taps, o.body = some (.mix dest addr N wait taps) ∧
      (dest = some n ∨ ∃ x ∈ taps, x.line = n) ∧
      (o.phase = .passing ∨ o.phase = .parked ∨ o.phase = .queued ∨ o.phase = .guardWait ∨ o.phase = .ready)) ∨
    ∃ addr N wait absolute fld mask, o.body = some (.tap n addr N wait absolute fld mask) ∧ o.phase = .ready

/-- The completion an operation that ends now posts (R55, R145): on its ring's response ring, while that is ACTIVE. -/
def completionPost (s : State) (c : CtxId) : Option Posted :=
  (s.ctx c).bind fun o =>
    if (s.respRing (s.ring o.ring).resp).state = .active then some ⟨(s.ring o.ring).resp, .completion c⟩ else none

/-- A command ring is bound to response ring `r`: it is in a state other than DISABLED and names it (R41, R143). -/
def Bound (s : State) (r : RespId) (k : RingId) : Prop := (s.ring k).state ≠ .disabled ∧ (s.ring k).resp = r

/-! ### Resets -/

/-- Every command ring is DISABLED with its indices 0 and its marks clear, nothing is being fetched, and the arbiter
starts afresh (R63). -/
def RingsCleared (t : State) : Prop :=
  (∀ k, t.ring k = CmdRing.disabledRing) ∧ (∀ p, t.fetcher.lastGrant.get p = 0) ∧ t.fetcher.fetch = none

/-- Every context and every mover is free, nothing is READY, and the Park Timer holds no deadline (R63, R95, R156). -/
def ContextsCleared (t : State) : Prop :=
  (∀ c, t.ctx c = none) ∧ t.sched.ready = [] ∧ (∀ m, t.mover m = none) ∧ t.parkTimer = []

/-- Every response ring is ABSENT, every post queue empty, every slot clear (R155). -/
def ResponsesCleared (t : State) : Prop :=
  (∀ r, t.respRing r = RespRing.absentRing) ∧ t.resp.posts = [] ∧ ∀ r, t.resp.faultSlots.get r = none

/-- The lines after a function or link reset (R19, R174): an OPEN line keeps its channels, C, policy, settings, W and
extents, its floor raised over the range of a writer that was MOVING; any other line is FREE. -/
def LinesRetained (s t : State) : Prop :=
  ∀ n, if (s.line n).state = .opened then
      t.line n =
        { s.line n with
          f := if movingFrames n s = 0 then (s.line n).f
            else max (s.line n).f ((s.line n).w + movingFrames n s - (s.line n).cap)
          writers := []
          park := []
          pins := []
          lapPending := false
          held := false }
    else t.line n = Line.freeLine

/-- The store after a function or link reset (R40): its contents, marks, counts, debt and timer are kept, the extents of
CLOSING lines are returned, waiting accesses are withdrawn, and an exit from self-refresh begins. -/
def StoreRetained (s t : State) : Prop :=
  t.store.state = s.store.state ∧ t.store.cells = s.store.cells ∧ t.store.marks = s.store.marks ∧
    t.store.corrected = s.store.corrected ∧ t.store.forced = s.store.forced ∧ t.store.debt = s.store.debt ∧
    t.store.timer = s.store.timer ∧ t.store.waiting = [] ∧ t.store.faultPending = false ∧
    t.store.power = (if s.store.power = .selfRefresh then .exiting else s.store.power) ∧
    t.store.freeExts =
      s.lines.rows.foldl (fun es l => if l.state = .closing then returnExtents l.extents es else es) s.store.freeExts

/-! ### The register window -/

/-- The offset of a configuration register (R73). -/
def configOffset : ConfigReg → Nat
  | .ctrlBaseLo => 0x10
  | .ctrlBaseHi => 0x14
  | .ctrlSize => 0x18
  | .resp0BaseLo => 0x20
  | .resp0BaseHi => 0x24
  | .resp0Size => 0x28
  | .resp0Mod => 0x2C

/-- The bytes of a write a configuration register stores (R73, R165). -/
def configStored (reg : ConfigReg) (v : Word32) : Word32 :=
  match reg with
  | .ctrlSize => v &&& 0xFF#32
  | .resp0Size => v &&& 0xFF#32
  | .ctrlBaseLo | .ctrlBaseHi | .resp0BaseLo | .resp0BaseHi | .resp0Mod => v

end Sys2Proof.Machine
end

