-- ==== Sys2Proof/Certificates/Slice0/Obligations.lean ====
section
/-! DEFINITION. The statements for the provers. Every statement about a command has as its conclusion that the command
answers a next state, and says what that state holds and what it leaves alone. -/

open Sys2Proof Sys2Proof.Machine

/-- Commands are taken one at a time: the command at the front of the queue is taken and has its effect on the state
with the queue's rest; with no command waiting, a microsecond passes and the store's interval timer, while it runs,
counts it (the model's choice, log 1 and log 2). -/
def Obligations.StepRunsFrontCommand : Prop :=
  (∀ (c : Instr) (s : State), step { s with pending := c :: s.pending } = exec c s) ∧
  ∀ s : State, s.pending = [] →
    step s = .next
      { s with
        now := s.now + 1
        store :=
          if s.store.state = .ready ∧ s.store.power = .active then { s.store with timer := s.store.timer + 10 }
          else s.store }

/-- The state after reset keeps every invariant (R19, R24, R40, R63, R155). -/
def Obligations.ResetMeetsInvariants : Prop :=
  LinesOk State.reset ∧ StoreOk State.reset ∧ BlocksOk State.reset ∧ RecordsOk State.reset ∧
    ContextsOk State.reset ∧ RespOk State.reset ∧ QueueOk State.reset

/-- Every step keeps the laws of the line entries (R2, R3, R6, R8, R16). -/
def Obligations.LinesInvariant : Prop := ∀ s t : State, LinesOk s → step s = .next t → LinesOk t

/-- Every step keeps the store's memory in its canonical form (the model's own, log 6), the debt within 8 and the
counts within their limit (R33, R36, R37). And every step keeps the laws of the store's blocks (R24): the extents held by
lines and the free extents are 262,144 blocks together, no block lies in two of them, and no two free extents are
adjacent; with them, that every record held in a context has its fields in range (R50). -/
def Obligations.StoreInvariant : Prop :=
  (∀ s t : State, StoreOk s → step s = .next t → StoreOk t) ∧
  ∀ s t : State, BlocksOk s → RecordsOk s → step s = .next t → BlocksOk t ∧ RecordsOk t

/-- Every step keeps the law of the windows: no ring ever holds more contexts than its window size (R53, R54). -/
def Obligations.WindowsInvariant : Prop := ∀ s t : State, ContextsOk s → step s = .next t → ContextsOk t

/-- Every step keeps the unreleased counts within the sizes of their response rings, and the host write queue within
its 64 places (R151, R161). -/
def Obligations.ResponsesInvariant : Prop :=
  ∀ s t : State, RespOk s → QueueOk s → step s = .next t → RespOk t ∧ QueueOk t

/-- The bytes of every well-formed record decode to it, on every ring its kind belongs to (R50, R64 to R69). -/
def Obligations.RecordsDecodeBack : Prop :=
  ∀ (k : RingId) (r : Record), wfBody r.body = true → isWorkKind (kindOfBody r.body) = decide (k ≠ 0) →
    decodeRecord k (encodeRecord r) = .record r

/-- Whatever the bytes, a record that passes decode belongs to its ring and has every field within its range
(R50, R65 to R69). What decode refuses (R50, R65): a kind code that no kind has gives BAD_RECORD with detail code 1 at
offset 0, whatever the ring; a kind of the other class gives WRONG_RING, whatever the fields; otherwise the fields are
checked in ascending order of offset, and the first that fails gives BAD_RECORD with its detail code plus 65,536 times
its offset. A record none of whose fields fails passes. (That a run of zero bytes is checked byte by byte, each at its
own offset, is the model's reading, log 11.) -/
def Obligations.DecodedRecordsAreInRange : Prop :=
  (∀ (k : RingId) (bs : List Byte) (r : Record), decodeRecord k bs = .record r →
    wfBody r.body = true ∧ isWorkKind (kindOfBody r.body) = decide (k ≠ 0)) ∧
  (∀ (b : Byte) (kind : Kind), kindOfByte b = some kind ↔ b.toNat = kindCode kind) ∧
  ∀ (k : RingId) (bs : List Byte),
    (kindOfByte (bs.getD 0 0) = none → decodeRecord k bs = .badRecord 1) ∧
    ∀ (kind : Kind) (checks : List FieldCheck), kindOfByte (bs.getD 0 0) = some kind →
      checks = headerChecks bs kind ++ bodyChecks bs (byteAt bs 1) kind →
      checks.Pairwise (fun c d => c.off < d.off) ∧ (∀ c ∈ checks, c.off < 128 ∧ 2 ≤ c.code ∧ c.code ≤ 18) ∧
      if (k = 0 ∧ isWorkKind kind = true) ∨ (k ≠ 0 ∧ isWorkKind kind = false) then decodeRecord k bs = .wrongRing
      else
        (∀ before c after, checks = before ++ c :: after → (∀ d ∈ before, d.ok = true) → c.ok = false →
          decodeRecord k bs = .badRecord (c.code + 65536 * c.off)) ∧
        ((∀ d ∈ checks, d.ok = true) → ∃ r, decodeRecord k bs = .record r ∧ kindOfBody r.body = kind ∧
          r.tag.toNat = field bs 4 2 ∧ (r.fence = true ↔ field bs 2 2 % 2 = 1) ∧
          (r.noIrq = true ↔ field bs 2 2 / 2 % 2 = 1))

/-! ### Resets and the register window -/

/-- A power-on or pin reset, whatever the state (R169, R170): every line is FREE, calibration begins with the whole
store free, every ring, context, mover and response ring is cleared, the register window and the link's message
configuration take their reset values, the time base is 0, and the cause is recorded. (That the fields of a DISABLED command ring and of an
ABSENT response ring that hold no value are zero is the model's choice, log 3.) -/
def Obligations.PowerAndPinReset : Prop :=
  ∀ (s : State) (c : Instr) (cause : ResetCause),
    (c = .powerOnReset ∧ cause = .powerOn) ∨ (c = .pinReset ∧ cause = .pin) →
    ∃ t, exec c s = .next t ∧ (∀ n, t.line n = Line.freeLine) ∧ RingsCleared t ∧ ContextsCleared t ∧
      ResponsesCleared t ∧ t.store.state = .calibrating ∧ t.store.power = .active ∧
      t.store.freeExts = [⟨0, 262144⟩] ∧ t.store.corrected = 0 ∧ t.store.forced = 0 ∧ t.store.debt = 0 ∧
      t.store.timer = 0 ∧ t.store.marks = [] ∧ t.store.waiting = [] ∧ t.store.busy = none ∧
      t.store.faultPending = false ∧ t.host.enable = .off ∧ t.host.resetCause = cause ∧ t.host.quiesce = .awake ∧
      t.host.configError = false ∧ t.host.idleDelay = 0 ∧ (∀ reg, regRead t (configOffset reg) = 0) ∧
      t.host.writeQ = [] ∧ t.host.waiters = [] ∧ t.host.msgEnable = false ∧
      (∀ r, (t.host.vectors.get r).addr = 0 ∧ (t.host.vectors.get r).data = 0 ∧
        (t.host.vectors.get r).pending = false) ∧
      (∀ x ∈ t.host.reads, x.requester = .nobody) ∧ t.pending = s.pending ∧ t.now = 0

/-- A link reset, whatever the state (R173): all that a function reset does, and the register window, the host write
queue, the message configuration and a held ENABLE are cleared. (The zeros in those fields of cleared rings that hold
no value are the model's choice, log 3.) -/
def Obligations.LinkReset : Prop :=
  ∀ (s : State) (lost : Bool), ∃ t, exec (.linkReset lost) s = .next t ∧ LinesRetained s t ∧ StoreRetained s t ∧
    RingsCleared t ∧ ContextsCleared t ∧ ResponsesCleared t ∧ t.host.enable = .off ∧ t.host.resetCause = .link ∧
    t.host.quiesce = .awake ∧ t.host.configError = false ∧ t.host.idleDelay = 0 ∧
    (∀ reg, regRead t (configOffset reg) = 0) ∧ t.host.writeQ = [] ∧ t.host.waiters = [] ∧
    t.host.msgEnable = false ∧
    (∀ r, (t.host.vectors.get r).addr = 0 ∧ (t.host.vectors.get r).data = 0 ∧
      (t.host.vectors.get r).pending = false) ∧
    (∀ x ∈ t.host.reads, x.requester = .nobody) ∧ (lost = true → t.host.linkUp = false) ∧ t.now = s.now ∧
    t.pending = s.pending ∧ t.link = s.link

/-- A CONTROL write of 0 (R164, R172): while ENABLE has taken effect it is a function reset, which keeps the lines, the
store, IDLE_DELAY, the configuration registers, the writes handed over and the message configuration but for its
pending marks; while ENABLE is held it only withdraws the hold; while ENABLE is 0 it leaves it 0. (The zeros in those
fields of cleared rings that hold no value are the model's choice, log 3.) -/
def Obligations.EnableClear : Prop :=
  ∀ (s : State) (upper : BitVec 31), s.host.linkUp = true → ∃ t, exec (.enableClear upper) s = .next t ∧
    t.host.enable = .off ∧ t.now = s.now ∧ t.pending = s.pending ∧ t.link = s.link ∧
    t.host.idleDelay = s.host.idleDelay ∧ (∀ reg, regRead t (configOffset reg) = regRead s (configOffset reg)) ∧
    t.host.configError = s.host.configError ∧ t.host.writeQ = s.host.writeQ ∧ t.host.msgEnable = s.host.msgEnable ∧
    if s.host.enable = .on then
      LinesRetained s t ∧ StoreRetained s t ∧ RingsCleared t ∧ ContextsCleared t ∧ ResponsesCleared t ∧
        t.host.resetCause = .function ∧ t.host.quiesce = .awake ∧
        (∀ r, t.host.vectors.get r = { s.host.vectors.get r with pending := false }) ∧
        (∀ x ∈ t.host.reads, x.requester = .nobody)
    else
      OnlyIn [.hostPort, .storeController] s t ∧ t.host.resetCause = s.host.resetCause ∧
        t.host.vectors = s.host.vectors ∧ t.store.cells = s.store.cells ∧ t.store.state = s.store.state

/-- A CONTROL write of 1 while ENABLE is 0 (R164, R165): a configuration that fails the check refuses it with
configuration error 1; one that passes makes ENABLE 1 with configuration error 0, held while the store is CALIBRATING;
else command ring 0 is RUNNING and response ring 0 ACTIVE from the registers (R62, R144), and a store in FAULT has its
notice pending (R23). (That ring 0's rank above level 3 is written as priority 4 is the model's choice, log 33.) -/
def Obligations.EnableSet : Prop :=
  ∀ (s : State) (upper : BitVec 31), s.host.linkUp = true → s.host.enable = .off →
    ∃ t, exec (.enableSet upper) s = .next t ∧
      OnlyIn [.hostPort, .ringFetcher, .responseUnit, .storeController] s t ∧ t.store.cells = s.store.cells ∧
      (∀ k, k ≠ 0 → t.ring k = s.ring k) ∧ (∀ r, r ≠ 0 → t.respRing r = s.respRing r) ∧
      if 4 ≤ s.host.ctrlSize.toNat ∧ s.host.ctrlSize.toNat ≤ 12 ∧ 4 ≤ s.host.resp0Size.toNat ∧
          s.host.resp0Size.toNat ≤ 13 ∧ s.host.ctrlBaseLo.toNat % 64 = 0 ∧ s.host.resp0BaseLo.toNat % 64 = 0 then
        t.host.configError = false ∧
          if s.store.state = .calibrating then t.host.enable = .held ∧ t.fetcher = s.fetcher ∧ t.resp = s.resp
          else
            t.host.enable = .on ∧
              t.ring 0 =
                { state := .running, base := (s.host.ctrlBaseHi ++ s.host.ctrlBaseLo : BitVec 64),
                  size := 2 ^ s.host.ctrlSize.toNat, prio := 4, windowSize := 1, resp := 0, take := 0, post := 0,
                  held := none, stop := none, notice := (s.ring 0).notice, window := [] } ∧
              t.respRing 0 =
                { state := .active, base := (s.host.resp0BaseHi ++ s.host.resp0BaseLo : BitVec 64),
                  size := 2 ^ s.host.resp0Size.toNat, fill := 0, phase := true, release := 0, unreleased := 0,
                  intOn := decide ((s.host.resp0Mod.toNat / 256) % 256 = 1),
                  modCount := max 1 (s.host.resp0Mod.toNat % 256), modTime := s.host.resp0Mod.toNat / 65536,
                  unsignalled := 0, oldest := none, fault := none } ∧
              (s.store.state = .fault → t.store.faultPending = true) ∧
              t.resp.posts = s.resp.posts ++
                (if s.store.state = .fault ∧ s.store.faultPending = false then [⟨0, .storeFault⟩] else [])
      else t.host.configError = true ∧ t.host.enable = .off ∧ t.fetcher = s.fetcher ∧ t.resp = s.resp

/-- A CONTROL write of any value does what its bit 0 says (R164, R177): it is the ENABLE_SET or the ENABLE_CLEAR of that
bit, whatever bits 1 to 31 hold (one effect under three rows: the model's choice, log 31). One that leaves ENABLE as it
stands takes a QUIET part back to AWAKE, begins the store's exit from self-refresh, and changes nothing else. -/
def Obligations.ControlWriteWakes : Prop :=
  (∀ (s : State) (v : Word32) (upper : BitVec 31),
    exec (.controlWrite v) s = exec (if v.getLsbD 0 = true then .enableSet upper else .enableClear upper) s) ∧
  ∀ (s : State) (v : Word32), s.host.linkUp = true →
    (v.getLsbD 0 = false ∧ s.host.enable = .off) ∨ (v.getLsbD 0 = true ∧ s.host.enable ≠ .off) →
    ∃ t, exec (.controlWrite v) s = .next t ∧ OnlyIn [.storeController] s t ∧
      t.store =
        (if isQuiet s = true ∧ s.store.power = .selfRefresh then { s.store with power := .exiting } else s.store) ∧
      isQuiet t = false

/-- Writes of the other registers that hold a value, and the writes that are ignored (R163, R165, R166): a
configuration register stores its named bytes while ENABLE is 0 and ignores writes otherwise, IDLE_DELAY stores bytes
0 and 1, and a write to IDENT, STATUS or an unlisted offset, or one narrower than 32 bits, changes nothing. -/
def Obligations.WindowWrites : Prop :=
  ∀ (s : State) (v : Word32), s.host.linkUp = true →
    (∀ reg, ∃ t, exec (.configRegisterWrite reg v) s = .next t ∧ OnlyIn [.hostPort] s t ∧
      t.host.enable = s.host.enable ∧ t.host.writeQ = s.host.writeQ ∧ t.host.idleDelay = s.host.idleDelay ∧
      (∀ other, regRead t (configOffset other) =
        if other = reg ∧ s.host.enable = .off then configStored reg v else regRead s (configOffset other))) ∧
    (∃ t, exec (.idleDelayWrite v) s = .next t ∧ OnlyIn [.hostPort] s t ∧ t.host.enable = s.host.enable ∧
      regRead t 0x0C = v &&& 0xFFFF#32 ∧
      ∀ other, regRead t (configOffset other) = regRead s (configOffset other)) ∧
    ∀ (offset : BitVec 8) (width : Width), width ≠ .word ∨ (offset.toNat % 4 = 0 ∧ writeIgnored offset.toNat = true) →
      ∃ t, exec (.registerWrite offset width v) s = .next t ∧ OnlyIn [] s t

/-- What IDENT, STATUS and the index registers read (R73, R163): each STATUS field as the state it reports stands. -/
def Obligations.StatusReads : Prop :=
  ∀ s : State, regRead s 0x00 = 0x00010416#32 ∧
    (regRead s 0x04).getLsbD 0 = decide (s.host.enable = .on) ∧ (regRead s 0x04).getLsbD 1 = isQuiet s ∧
    ((regRead s 0x04).extractLsb' 2 2).toNat = storeCode s.store.state ∧
    ((regRead s 0x04).extractLsb' 4 3).toNat = ringCode (s.ring 0).state ∧
    (regRead s 0x04).getLsbD 7 = decide ((s.respRing 0).state = .faulted) ∧
    (regRead s 0x04).getLsbD 8 = s.host.configError ∧
    ((regRead s 0x04).extractLsb' 12 2).toNat = causeCode s.host.resetCause ∧
    ((regRead s 0x04).extractLsb' 16 9).toNat = linesRetained s ∧
    (∀ k : RingId, regRead s (0x40 + 4 * k.val) = BitVec.ofNat 32 (s.ring k).post) ∧
    ∀ r : RespId, regRead s (0x80 + 4 * r.val) = BitVec.ofNat 32 (s.respRing r).release

/-- A write to POST k (R43, R51, R52, R177): recorded by a RUNNING or PAUSED ring while below S, clearing the held mark
if it differs; S or more stops such a ring with BAD_POST; any other ring ignores it. A RUNNING ring's write takes a
QUIET part back to AWAKE. -/
def Obligations.PostWrite : Prop :=
  ∀ (s : State) (k : RingId) (v : Word32), s.host.linkUp = true → ∃ t, exec (.postWrite k v) s = .next t ∧
    OnlyIn [.hostPort, .ringFetcher, .responseUnit, .storeController] s t ∧ t.store.cells = s.store.cells ∧
    (∀ j, j ≠ k → t.ring j = s.ring j) ∧ t.fetcher.fetch = s.fetcher.fetch ∧ t.resp.rings = s.resp.rings ∧
    ((s.ring k).state = .running → isQuiet t = false) ∧
    if (s.ring k).state = .running ∨ (s.ring k).state = .paused then
      if v.toNat < (s.ring k).size then
        t.ring k =
          { s.ring k with post := v.toNat, held := if v.toNat = (s.ring k).post then (s.ring k).held else none } ∧
        t.resp.posts = s.resp.posts
      else
        t.ring k =
          { s.ring k with
            state := .stopped
            stop := some .badPost
            notice :=
              if (s.ring k).notice.isSome = true ∨ (s.respRing 0).state = .active then some (.badPost, (s.ring k).take)
              else none } ∧
        t.resp.posts = s.resp.posts ++
          (if (s.ring k).notice = none ∧ (s.respRing 0).state = .active then [⟨0, .ringStopped k⟩] else [])
    else t.ring k = s.ring k ∧ t.resp.posts = s.resp.posts

/-- A write to RELEASE k (R148 to R152): ignored unless the ring is ACTIVE; a value below S that releases no more than
the unreleased count is taken; any other value faults the ring. A fault discards the ring's post queue, with the context
of every completion free and the pending flag or slot of every notice clear; sends the ring's interrupt, if it is on,
and clears its unsignalled count; for rings 1 to 3 raises the RESPONSE_FAULTED notice on an ACTIVE ring 0, ahead of the
RING_STOPPED notices, or replaces the values of one that is pending; and stops every RUNNING or PAUSED command ring bound
to it, in ascending number. (That the command rings stop within the same step is the model's reading, log 37; that the
message has its vector's address and data of the hand-over is its choice, log 46.) -/
def Obligations.ReleaseWrite : Prop :=
  ∀ (s : State) (r : RespId) (v : Word32), s.host.linkUp = true → ∃ t, exec (.releaseWrite r v) s = .next t ∧
    t.now = s.now ∧ t.pending = s.pending ∧ t.store.cells = s.store.cells ∧ t.movers = s.movers ∧
    t.parkTimer = s.parkTimer ∧ t.link = s.link ∧ (∀ j, j ≠ r → t.respRing j = s.respRing j) ∧
    if (s.respRing r).state = .active then
      if v.toNat < (s.respRing r).size ∧
          (v.toNat + (s.respRing r).size - (s.respRing r).release) % (s.respRing r).size ≤
            (s.respRing r).unreleased then
        OnlyIn [.responseUnit] s t ∧ t.resp.posts = s.resp.posts ∧
          t.respRing r =
            { s.respRing r with
              release := v.toNat
              unreleased := (s.respRing r).unreleased -
                (v.toNat + (s.respRing r).size - (s.respRing r).release) % (s.respRing r).size }
      else
        ∀ (info : FaultInfo) (x : RespRing) (gone : PostItem → Bool) (slot : Option FaultInfo)
          (notice : RingId → Option (StopReason × Nat)) (stops : RingId → Bool) (raises : Bool) (msg : HostWrite),
          x = s.respRing r →
          info = ⟨if x.size ≤ v.toNat then 2 else 1, v.toNat, x.unreleased⟩ →
          (∀ i, gone i = decide (⟨r, i⟩ ∈ s.resp.posts)) →
          slot = (if gone (.respFaulted r) = true then none else s.resp.faultSlots.get r) →
          (∀ k, notice k = if gone (.ringStopped k) = true then none else (s.ring k).notice) →
          (∀ k, stops k = true ↔ (s.ring k).resp = r ∧ ((s.ring k).state = .running ∨ (s.ring k).state = .paused)) →
          (raises = true ↔ r ≠ 0 ∧ (s.respRing 0).state = .active) →
          msg = ⟨.message r, (s.host.vectors.get r).addr, leBytes 4 (s.host.vectors.get r).data.toNat⟩ →
          t.respRing r =
            { x with
              state := .faulted
              fault := if r = 0 then none else some info
              unsignalled := if x.intOn = true then 0 else x.unsignalled
              oldest := if x.intOn = true then none else x.oldest } ∧
          t.resp.posts =
            s.resp.posts.filter (fun y => decide (y.ring ≠ r)) ++
              (if raises = true ∧ slot = none then [⟨0, .respFaulted r⟩] else []) ++
              ((List.finRange 16).filter fun k => raises && stops k && (notice k).isNone).map
                (fun k => ⟨0, .ringStopped k⟩) ∧
          (∀ c, t.ctx c = if gone (.completion c) = true then none else s.ctx c) ∧
          t.sched.ready = s.sched.ready ∧
          (∀ n, t.line n = if gone (.lap n) = true then { s.line n with lapPending := false } else s.line n) ∧
          t.store = (if gone .storeFault = true then { s.store with faultPending := false } else s.store) ∧
          (∀ q, t.resp.faultSlots.get q =
            if q = r ∧ r ≠ 0 ∧ (slot.isSome = true ∨ raises = true) then some info
            else if gone (.respFaulted q) = true then none
            else s.resp.faultSlots.get q) ∧
          (∀ k, t.ring k =
            if stops k = true then
              { s.ring k with
                state := .stopped
                stop := some .responseFault
                notice := if (notice k).isSome = true ∨ raises = true then some (.responseFault, (s.ring k).take)
                  else none
                window := (t.ring k).window }
            else { s.ring k with notice := notice k, window := (t.ring k).window }) ∧
          (∀ k, (s.ring k).window.Nodup → ∀ c, c ∈ (t.ring k).window ↔
            c ∈ (s.ring k).window ∧ ¬(gone (.completion c) = true ∧ (s.ctx c).map Operation.ring = some k)) ∧
          { t.host with
            quiesce := s.host.quiesce
            writeQ := s.host.writeQ
            waiters := s.host.waiters
            vectors := s.host.vectors } = s.host ∧
          (∀ j, t.host.vectors.get j =
            if j = r ∧ x.intOn = true ∧ s.host.msgEnable = true ∧ (s.host.vectors.get r).masked = true then
              { s.host.vectors.get j with pending := true }
            else s.host.vectors.get j) ∧
          if x.intOn = true ∧ s.host.msgEnable = true ∧ (s.host.vectors.get r).masked = false then
            (msg ∈ t.host.writeQ ∨ .message msg ∈ t.host.waiters) ∧
              (s.host.waiters = [] → (t.host.writeQ, t.host.waiters) =
                if s.host.writeQ.length + 1 ≤ 64 then (s.host.writeQ ++ [msg], []) else (s.host.writeQ, [.message msg]))
          else .item ∉ s.host.waiters → t.host.writeQ = s.host.writeQ ∧ t.host.waiters = s.host.waiters
    else OnlyIn [] s t

/-! ### The host link -/

/-- The link's configuration accesses (R161, R162): each message setting is stored; clearing a mask clears a pending
mark, which, messages being enabled, becomes one message (disabled, it is dropped: the model's choice, log 24);
permission withdrawn holds reads, permission restored issues them in order, those of a failed DEPOSIT too (the model's
choice, log 45), in the step of its return and so ahead of every queued write (the model's choice, log 48), a read that
crosses from 2^64 - 1 to 0 as two requests (R179); a report of an undeliverable write changes nothing; a link that
returns is up, with every register as it was, and its reads are issued so too (log 48). (A message's address and data are
those at the hand-over: the model's choice, log 46.) -/
def Obligations.LinkEvents : Prop :=
  (∀ (s : State) (x : MessageSetting), s.host.linkUp = true →
    ∃ t, exec (.messageConfiguration x) s = .next t ∧ OnlyIn [.hostPort] s t ∧ t.link = s.link ∧
      match x with
      | .address r a => t.host.vectors = s.host.vectors.set r { s.host.vectors.get r with addr := a } ∧
          t.host.msgEnable = s.host.msgEnable ∧ t.host.writeQ = s.host.writeQ
      | .data r v => t.host.vectors = s.host.vectors.set r { s.host.vectors.get r with data := v } ∧
          t.host.msgEnable = s.host.msgEnable ∧ t.host.writeQ = s.host.writeQ
      | .enable b => t.host.msgEnable = b ∧ t.host.vectors = s.host.vectors ∧ t.host.writeQ = s.host.writeQ
      | .mask r true => t.host.vectors = s.host.vectors.set r { s.host.vectors.get r with masked := true } ∧
          t.host.msgEnable = s.host.msgEnable ∧ t.host.writeQ = s.host.writeQ
      | .mask r false =>
          t.host.vectors = s.host.vectors.set r { s.host.vectors.get r with masked := false, pending := false } ∧
            t.host.msgEnable = s.host.msgEnable ∧
            ((s.host.vectors.get r).pending = false → t.host.writeQ = s.host.writeQ) ∧
            ((s.host.vectors.get r).pending = true → s.host.msgEnable = true → s.host.waiters = [] →
              s.host.writeQ.length < 64 →
              t.host.writeQ = s.host.writeQ ++
                [⟨.message r, (s.host.vectors.get r).addr, leBytes 4 (s.host.vectors.get r).data.toNat⟩])) ∧
  (∀ (s : State) (c : Instr) (allowed : Bool) (requests : HostRead → List LinkRequest),
    (∃ granted, c = .requestPermissionChange granted ∧ s.host.linkUp = true ∧ allowed = granted) ∨
      (c = .linkReturn ∧ s.host.linkUp = false ∧ allowed = s.host.permitted) →
    (∀ x, requests x =
      if x.addr.toNat + x.len ≤ 2 ^ 64 then [.read x.addr x.len]
      else [.read x.addr (2 ^ 64 - x.addr.toNat), .read 0 (x.len - (2 ^ 64 - x.addr.toNat))]) →
    ∃ t, exec c s = .next t ∧ OnlyIn [.hostPort] s t ∧ t.host.linkUp = true ∧ t.host.permitted = allowed ∧
      t.host.writeQ = s.host.writeQ ∧ t.host.waiters = s.host.waiters ∧
      if allowed = true then
        t.host.reads = s.host.reads.map (fun x => { x with issued := some (x.issued.getD s.now) }) ∧
          t.link = s.link ++ (s.host.reads.filter fun x => x.issued.isNone).flatMap requests
      else t.host.reads = s.host.reads ∧ t.link = s.link) ∧
  (∀ s : State, exec .writeUndeliverableReport s = .next s) ∧
  ∀ s : State, s.host.linkUp = false →
    ∃ t, exec .linkReturn s = .next t ∧ OnlyIn [.hostPort] s t ∧ t.host.linkUp = true ∧
      t.host.enable = s.host.enable ∧ t.host.writeQ = s.host.writeQ ∧ ∀ o, regRead t o = regRead s o

/-- The Host Port issues the oldest queued write first, and the place it frees goes to the requester that has waited
longest (R161): its writes join the queue as soon as all of them fit, and where it hands its write over in a step of its
own, an item or a report, the place is kept for that step (the model's reading, log 25). -/
def Obligations.HostWriteIssue : Prop :=
  ∀ (s : State) (x : HostWrite) (rest : List HostWrite), s.host.writeQ = x :: rest → s.host.linkUp = true →
    s.host.permitted = true →
    ∃ t, exec .hostWriteIssue s = .next t ∧ OnlyIn [.hostPort, .movers, .storeController] s t ∧
      (∃ later, t.link = s.link ++ .write x :: later) ∧ t.store.cells = s.store.cells ∧
      (s.host.waiters = [] → t.host.writeQ = rest ∧ t.host.waiters = []) ∧
      ∀ y ys, s.host.waiters = y :: ys →
        (∀ ws, waiterWrites y = some ws →
          if rest.length + ws.length ≤ 64 then ∃ later, t.host.writeQ = rest ++ ws ++ later
          else t.host.writeQ = rest ∧ t.host.waiters = y :: ys) ∧
        (waiterWrites y = none → t.host.writeQ = rest ∧ t.host.waiters = y :: ys ∧
          ∀ count, hasPlace y count t = decide (rest.length + count ≤ 64))

/-! ### The store -/

/-- Calibration ends (R21, R23, R36, R164): READY or FAULT with debt 0 and a fresh interval; a held ENABLE takes effect,
with the notice pending if the store is in FAULT; otherwise ENABLE and the rings are as they were. -/
def Obligations.CalibrationComplete : Prop :=
  ∀ (s : State) (ok : Bool), s.store.state = .calibrating →
    ∃ t, exec (.calibrationComplete ok) s = .next t ∧
      OnlyIn [.hostPort, .ringFetcher, .responseUnit, .storeController] s t ∧
      t.store.state = (if ok = true then .ready else .fault) ∧ t.store.debt = 0 ∧ t.store.timer = 0 ∧
      t.store.cells = s.store.cells ∧ t.store.freeExts = s.store.freeExts ∧ t.store.power = s.store.power ∧
      if s.host.enable = .held then
        t.host.enable = .on ∧ (t.ring 0).state = .running ∧ (t.ring 0).take = 0 ∧ (t.ring 0).post = 0 ∧
          (t.ring 0).size = 2 ^ s.host.ctrlSize.toNat ∧ (t.respRing 0).state = .active ∧
          (t.respRing 0).size = 2 ^ s.host.resp0Size.toNat ∧ (t.respRing 0).fill = 0 ∧ (t.respRing 0).phase = true ∧
          (ok = false → t.store.faultPending = true)
      else t.host.enable = s.host.enable ∧ t.fetcher = s.fetcher ∧ t.resp.rings = s.resp.rings

/-- Refresh (R36, R37): an interval that has passed adds 1 to the debt; an ordinary refresh is issued between accesses
when none waits; at a debt of 8 a forced one goes ahead of every waiting access and is counted; each ends without
changing a byte of the store. (What is left over of an interval stays in the timer and the debt stops at 8: the model's
reading, log 26.) -/
def Obligations.RefreshSteps : Prop :=
  ∀ s : State,
    (s.store.state = .ready → s.store.power = .active → 78 ≤ s.store.timer →
      ∃ t, exec .refreshDue s = .next t ∧ OnlyIn [.storeController] s t ∧
        t.store = { s.store with timer := s.store.timer - 78, debt := min 8 (s.store.debt + 1) }) ∧
    (s.store.state = .ready → s.store.power = .active → 0 < s.store.debt → s.store.debt < 8 → s.store.busy = none →
      s.store.waiting = [] →
      ∃ t, exec .ordinaryRefresh s = .next t ∧ OnlyIn [.storeController] s t ∧
        t.store = { s.store with debt := s.store.debt - 1, busy := some .refresh }) ∧
    (s.store.state = .ready → s.store.power = .active → s.store.debt = 8 → s.store.busy = none →
      ∃ t, exec .forcedRefresh s = .next t ∧ OnlyIn [.storeController] s t ∧
        t.store =
          { s.store with
            debt := 7
            busy := some .refresh
            forced := min 4294967295 (s.store.forced + 1) }) ∧
    (s.store.busy = some .refresh →
      ∃ t, exec .refreshComplete s = .next t ∧ OnlyIn [.storeController] s t ∧ t.store = { s.store with busy := none })

/-- The serving of the oldest waiting access (R22, R32): a READY store whose power is ACTIVE, with nothing in progress
and no forced refresh ahead, begins it; in FAULT it is refused and its operation ends STORE_FAULT, its mover free, with
no byte of the store and no W or F of an OPEN line changed (result position and aux 0, log 21). -/
def Obligations.StoreAccessStart : Prop :=
  ∀ (s : State) (a : Access) (rest : List Access), s.store.waiting = a :: rest →
    (s.store.state = .ready → s.store.power = .active → s.store.busy = none → s.store.debt < 8 →
      a.addr + a.len ≤ 1073741824 →
      ∃ t, exec .storeAccessStart s = .next t ∧ OnlyIn [.storeController] s t ∧
        t.store = { s.store with waiting := rest, busy := some (.access a) }) ∧
    ∀ (m : MoverId) (mv : Mover) (o : Operation) (b : Body), s.store.state = .fault → a.mover = some m →
      s.mover m = some mv → s.ctx mv.ctx = some o → o.body = some b → mv.ctx ≠ 0 →
      ∃ t, exec .storeAccessStart s = .next t ∧ t.mover m = none ∧ EndsWith s mv.ctx ⟨.storeFault, 0, 0⟩ t ∧
        t.store.waiting = rest ∧ t.store.cells = s.store.cells ∧ t.store.state = .fault ∧
        ∀ n, (s.line n).state = .opened →
          (t.line n).w = (s.line n).w ∧ (t.line n).f = (s.line n).f ∧ (t.line n).extents = (s.line n).extents

/-- A read burst ends (R33, R34): the store's bytes are as they were, each word with one bit in error is counted, and
the mover's run gains the burst's bytes, corrected, with zeros for an uncorrectable word. Of the uncorrectable words the
mover keeps the lowest position whose frame has a sample in one, with its tap, the lower tap of equals (R101, R120). The
output grows with what has been read, a TAP's packed (R102), a MIX's mixed (R121), and goes out in host writes of at most
512 bytes from the buffer's start, each as soon as all its bytes are at hand and only once (R103, R122), one that crosses
from 2^64 - 1 to 0 as two writes (R179). A TAP's packed output holds the selected channels of each frame in ascending
order, and a MIX's has 4 times its channels times N bytes. Its mover then asks for its next access: the next burst of a
run from the bytes read of it so far (R101, R120), or the write burst of a MIX into a line whose bytes are at hand (the
order of its runs and of writes and reads is the model's choice, log 18), but for a mover whose host write waits for a
place, which asks for none (the model's reading, log 25). The words found flipped are the command's
operand (the model's choice, log 7). -/
def Obligations.ReadBurst : Prop :=
  (∀ (s : State) (a : Access) (flips : List (Nat × Flip)), s.store.busy = some (.access a) → a.write = none →
    ∃ t, exec (.storeAccessComplete flips) s = .next t ∧ OnlyIn [.hostPort, .movers, .storeController] s t ∧
      t.store.busy = none ∧ t.store.cells = s.store.cells ∧ t.store.marks = flips.foldl addFlip s.store.marks ∧
      t.store.corrected =
        min 4294967295 (s.store.corrected + ((wordsOf a.addr a.len).filter fun w =>
          decide (markOf t.store.marks w = some .single)).length) ∧
      ∀ (m : MoverId) (mv : Mover) (r : Run) (o : Operation) (b : Body), a.mover = some m → s.mover m = some mv →
        mv.runs[a.run]? = some r → s.ctx mv.ctx = some o → o.body = some b →
        ∃ mv' r', t.mover m = some mv' ∧ mv'.ctx = mv.ctx ∧ mv'.runs = mv.runs.set a.run r' ∧ r'.line = r.line ∧
          r'.start = r.start ∧ r'.frames = r.frames ∧
          r'.data = r.data ++ (List.range' a.addr a.len).map (fun x =>
            if markOf t.store.marks (x / 32) = some .double then 0 else Memory.read s.store.cells x) ∧
          (∀ y, mv'.firstBad = some y → mv.firstBad = some y ∨
            (y.2 = a.run + 1 ∧ r.start ≤ y.1 ∧ y.1 < r.start + r.frames ∧
              ∃ w ∈ wordsOf a.addr a.len, markOf t.store.marks w = some .double ∧ sampleIn (s.line r.line) y.1 w)) ∧
          (∀ z, mv.firstBad = some z →
            ∃ y, mv'.firstBad = some y ∧ (y.1 < z.1 ∨ (y.1 = z.1 ∧ y.2 ≤ z.2))) ∧
          (∀ w ∈ wordsOf a.addr a.len, markOf t.store.marks w = some .double → ∀ q, r.start ≤ q →
            q < r.start + r.frames → sampleIn (s.line r.line) q w →
            ∃ y, mv'.firstBad = some y ∧ (y.1 < q ∨ (y.1 = q ∧ y.2 ≤ a.run + 1))) ∧
          (∀ n addr N wait absolute fld mask, b = .tap n addr N wait absolute fld mask →
            mv'.out = tapOutput (s.line n) mask (mv'.runs.flatMap Run.data)) ∧
          (∀ dest addr N wait taps mixed, b = .mix dest addr N wait taps →
            mixed = mixOutput ((taps.zip mv'.runs).map fun y => (y.1.gain.toInt, samples y.2.data)) →
            mv'.out = mixed.1.flatMap sampleBytes ∧ mv'.clips = mixed.2) ∧
          AsksStore s.store.waiting m mv' o b t ∧ (destOf b ≠ none → t.host.writeQ = s.host.writeQ) ∧
          ∀ total first last : Nat, destOf b = none → total = outputBytes s b → first = (mv.hostDone + 511) / 512 →
            last = (if mv'.out.length = total then (total + 511) / 512 else mv'.out.length / 512) →
            mv'.hostDone = min total (mv.hostDone + 512 * (last - first)) ∧
            (s.host.waiters = [] → s.host.writeQ.length + 2 * (last - first) ≤ 64 →
              t.host.writeQ = s.host.writeQ ++ (List.range' first (last - first)).flatMap fun x =>
                splitWrite .data (bufferOf b + BitVec.ofNat 64 (512 * x)) ((mv'.out.drop (512 * x)).take 512))) ∧
  (∀ (kind : WriteKind) (addr : HostAddr) (bytes : List Byte), splitWrite kind addr bytes =
    if addr.toNat + bytes.length ≤ 2 ^ 64 then [⟨kind, addr, bytes⟩]
    else [⟨kind, addr, bytes.take (2 ^ 64 - addr.toNat)⟩, ⟨kind, 0, bytes.drop (2 ^ 64 - addr.toNat)⟩]) ∧
  (∀ (s : State) (n : LineId) (addr : HostAddr) (N wait : Nat) (absolute : Bool) (fld : Nat) (mask : BitVec 16),
    outputBytes s (.tap n addr N wait absolute fld mask) = 4 * (selectedChannels (s.line n) mask).length * N ∧
      bufferOf (.tap n addr N wait absolute fld mask) = addr) ∧
  (∀ (s : State) (dest : Option LineId) (addr : HostAddr) (N wait : Nat) (x : MixTap) (taps : List MixTap),
    outputBytes s (.mix dest addr N wait (x :: taps)) = 4 * (s.line x.line).channels * N ∧
      bufferOf (.mix dest addr N wait (x :: taps)) = addr) ∧
  ∀ (l : Line) (mask : BitVec 16) (data : List Byte) (N sel : Nat), 0 < l.channels → sel = (selectedChannels l mask).length →
    data.length = N * (4 * l.channels) →
    (tapOutput l mask data).length = 4 * sel * N ∧ (selectedChannels l mask).Pairwise (fun c d => c < d) ∧
    (∀ c, c ∈ selectedChannels l mask ↔ c < l.channels ∧ (mask = 0 ∨ mask.getLsbD c = true)) ∧
    ∀ k j c i, k < N → (selectedChannels l mask)[j]? = some c → i < 4 →
      (tapOutput l mask data)[4 * (sel * k + j) + i]? = data[4 * l.channels * k + 4 * c + i]?

/-- A write burst ends (R35): exactly its bytes of the store change, and take the values written; a word covered whole
has no mark, a partly covered word with one bit in error is counted as corrected and repaired, a partly covered
uncorrectable word keeps its mark, and every other word keeps its own. The words found flipped by then are the command's
operand (the model's choice, log 7). Its mover then asks for its next access: a writer for the burst that carries its run
from position W on past the bytes stored, frame k going to position W + k, with the bytes of its buffer, zeros for a SKIP
or the Mix Unit's output at those offsets (R79, R80, R122, R31), once they are at hand; a MIX whose bytes are not at hand
for the next read burst of its runs (the order is the model's choice, log 18; that a mover whose host write waits for a
place asks for none is its reading, log 25). -/
def Obligations.WriteBurst : Prop :=
  ∀ (s : State) (a : Access) (bytes : List Byte) (flips marks : List (Nat × Flip)),
    s.store.busy = some (.access a) → a.write = some bytes → StoreOk s →
    s.store.marks.Pairwise (fun x y => x.1 < y.1) → marks = flips.foldl addFlip s.store.marks →
    ∃ t, exec (.storeAccessComplete flips) s = .next t ∧ OnlyIn [.hostPort, .movers, .storeController] s t ∧
      t.store.busy = none ∧
      (∀ x, x < a.addr ∨ a.addr + bytes.length ≤ x → Memory.read t.store.cells x = Memory.read s.store.cells x) ∧
      (∀ i (h : i < bytes.length), Memory.read t.store.cells (a.addr + i) = bytes[i]) ∧
      (∀ w, markOf t.store.marks w =
        if a.addr ≤ 32 * w ∧ 32 * (w + 1) ≤ a.addr + bytes.length then none
        else if 32 * w < a.addr + bytes.length ∧ a.addr < 32 * (w + 1) ∧ bytes ≠ [] ∧ markOf marks w = some .single then
          none
        else markOf marks w) ∧
      t.store.corrected =
        min 4294967295 (s.store.corrected + ((wordsOf a.addr bytes.length).filter fun w =>
          decide (¬(a.addr ≤ 32 * w ∧ 32 * (w + 1) ≤ a.addr + bytes.length) ∧ markOf marks w = some .single)).length) ∧
      ∀ (m : MoverId) (mv : Mover), a.mover = some m → s.mover m = some mv →
        ∃ mv', t.mover m = some mv' ∧ mv'.written = mv.written + bytes.length ∧ mv'.ctx = mv.ctx ∧
          mv'.arrived = mv.arrived ∧ mv'.out = mv.out ∧ mv'.runs = mv.runs ∧ mv'.failedAt = mv.failedAt ∧
          ∀ (o : Operation) (b : Body), s.ctx mv.ctx = some o → o.body = some b →
            AsksStore s.store.waiting m mv' o b t

/-- The part comes to rest (R38, R39, R176): at the idle deadline an IDLING part becomes QUIET and a READY, ACTIVE store
enters SELF_REFRESH; with the post indices as in the snapshot it stays so, else it leaves QUIET at once and the store's
exit begins. An exit ends with the store ACTIVE, debt 0 and a fresh interval, unless the part is QUIET again. (A refresh
in progress at the entry runs on: the model's choice, log 43.) -/
def Obligations.Quiescence : Prop :=
  (∀ (s : State) (deadline : Nat) (snapshot : List Nat), s.host.quiesce = .idling deadline snapshot →
    deadline ≤ s.now → s.store.state = .ready → s.store.power = .active →
    ∃ t, exec .idleDeadlineExpiry s = .next t ∧ OnlyIn [.storeController] s t ∧
      if s.fetcher.rings.rows.map CmdRing.post = snapshot then
        isQuiet t = true ∧ t.store = { s.store with power := .selfRefresh, debt := 0, timer := 0 }
      else isQuiet t = false ∧ t.store = { s.store with power := .exiting, debt := 0, timer := 0 }) ∧
  (∀ (s : State) (deadline : Nat) (snapshot : List Nat), s.host.quiesce = .idling deadline snapshot →
    deadline ≤ s.now → s.store.state = .fault → s.store.power = .active →
    ∃ t, exec .idleDeadlineExpiry s = .next t ∧ OnlyIn [] s t ∧
      isQuiet t = decide (s.fetcher.rings.rows.map CmdRing.post = snapshot)) ∧
  (∀ s : State, s.store.power = .exiting → isQuiet s = false →
    ∃ t, exec .selfRefreshExitEnd s = .next t ∧ OnlyIn [.storeController] s t ∧
      t.store = { s.store with power := .active, debt := 0, timer := 0 }) ∧
  ∀ (s : State) (snapshot : List Nat), s.store.power = .exiting → s.store.state = .ready →
    s.host.quiesce = .quiet (some snapshot) →
    ∃ t, exec .selfRefreshExitEnd s = .next t ∧ OnlyIn [.storeController] s t ∧
      if s.fetcher.rings.rows.map CmdRing.post = snapshot then isQuiet t = true ∧ t.store.power = .selfRefresh
      else isQuiet t = false ∧ t.store.power = .exiting

/-- The idle period within the event that makes the part idle or ends it (R175): an AWAKE part that is idle with
IDLE_DELAY above 0 becomes IDLING with its deadline and the post indices of that moment; an IDLING part no longer idle
becomes AWAKE; a QUIET one stays so. It changes nothing but the quiescence state. And every step leaves the quiescence
state so, from any state that has it so, as reset does: a part that becomes idle or stops being idle within the step is
IDLING or AWAKE at its end, and an idle period that began within it has its deadline and post indices of that moment. -/
def Obligations.IdlePeriod : Prop :=
  (∀ s : State, OnlyIn [] s (settleIdle s) ∧
    (idle s = true ↔
      s.host.enable = .on ∧ (∀ c, s.ctx c = none) ∧ s.fetcher.fetch = none ∧ s.resp.posts = [] ∧
        ∀ k, (s.ring k).state = .running → (s.ring k).post = (s.ring k).take) ∧
    (settleIdle s).host.quiesce =
      match s.host.quiesce with
      | .awake =>
        if idle s = true ∧ 0 < s.host.idleDelay.toNat then
          .idling (s.now + s.host.idleDelay.toNat) (s.fetcher.rings.rows.map CmdRing.post)
        else .awake
      | .idling d p => if idle s = true then .idling d p else .awake
      | .quiet p => .quiet p) ∧
  settleIdle State.reset = State.reset ∧
  ∀ s t : State, settleIdle s = s → step s = .next t →
    settleIdle t = t ∧
    (t.host.quiesce = .awake → idle t = true → t.host.idleDelay = 0) ∧
    ∀ d p, t.host.quiesce = .idling d p →
      idle t = true ∧ (s.host.quiesce = .idling d p ∨
        d = t.now + t.host.idleDelay.toNat ∧ p = t.fetcher.rings.rows.map CmdRing.post)

/-! ### Fetching -/

/-- A fetch grant (R46, R47): the ring the arbiter chooses has a free context reserved, its slot at the take index is
asked for as one read of 64 bytes, its level remembers it, and no ring's entry changes. (That the address is taken
modulo 2^64 and that a permitted read leaves at once are the model's choices, log 44 and log 47.) -/
def Obligations.FetchGrant : Prop :=
  ∀ (s : State) (k : RingId) (level : Option (Fin 4)), grantedRing s = some (k, level) →
    ∃ t c, exec .fetchGrant s = .next t ∧ OnlyIn [.hostPort, .ringFetcher] s t ∧ s.ctx c = none ∧ (c = 0 ↔ k = 0) ∧
      t.fetcher.fetch = some ⟨k, c, none⟩ ∧ t.fetcher.rings = s.fetcher.rings ∧
      (∀ p, t.fetcher.lastGrant.get p = if level = some p then k.val else s.fetcher.lastGrant.get p) ∧
      t.host.reads = s.host.reads ++
        [⟨s.host.nextRead, .fetch, (s.ring k).base + BitVec.ofNat 64 (64 * (s.ring k).take), 64,
          if s.host.linkUp = true ∧ s.host.permitted = true then some s.now else none⟩] ∧
      t.host.writeQ = s.host.writeQ

/-- Which rings are eligible for a fetch grant, and the fetch arbiter's choice among them (R45, R46): an eligible ring;
ring 0 whenever it is eligible; else a work ring whose level no eligible work ring exceeds, and of that level the first
counting upward from the ring last granted there. -/
def Obligations.FetchArbiter : Prop :=
  (∀ (s : State) (k : RingId), eligible s k = true ↔
    (s.ring k).state = .running ∧
      1 ≤ ((s.ring k).post + (s.ring k).size - (s.ring k).take) % (s.ring k).size ∧ (s.ring k).held = none ∧
      (s.ring k).window.length + (if s.fetcher.fetch.any (fun f => decide (f.ring = k)) = true then 1 else 0) <
        (s.ring k).windowSize ∧
      (∃ c, s.ctx c = none ∧ (c = 0 ↔ k = 0)) ∧ s.fetcher.fetch = none ∧ s.host.enable = .on ∧
      isQuiet s = false ∧ s.store.power ≠ .exiting) ∧
  ∀ s : State, (∀ k, (s.ring k).prio ≤ 4) → (∀ k, k ≠ 0 → (s.ring k).prio ≤ 3) →
    ((grantedRing s = none ↔ ∀ k, eligible s k = false) ∧
    ∀ (k : RingId) (level : Option (Fin 4)), grantedRing s = some (k, level) → eligible s k = true ∧
      (eligible s 0 = true → k = 0) ∧ (level = none ↔ k = 0) ∧
      ∀ p, level = some p → (s.ring k).prio = p.val ∧
        ∀ j, j ≠ 0 → eligible s j = true → (s.ring j).prio ≤ p.val ∧
          ((s.ring j).prio = p.val →
            (k.val + 14 + 14 * s.fetcher.lastGrant.get p) % 15 ≤ (j.val + 14 + 14 * s.fetcher.lastGrant.get p) % 15))

/-- The end of a fetch's reads (R47, R48, R50): an impossible slot count stops the ring with BAD_SLOTS; of a two-slot
record the second slot is read when posted, whatever the ring's state by then, else the held mark is set (at a count of
0 by the model's choice, and not on a ring that had stopped or was draining, log 22). After the last read a RUNNING or
PAUSED ring takes the record, which, if it passes decode, waits in its context; any other ring drops it. The take index
moves with a taken record only, by its slots. A read later than 50,000 microseconds is no completion (HostReadEnds; one
at exactly that time still is, the model's choice, log 39). (That the second slot's address is taken modulo 2^64 and
that its read leaves at once are the model's choices, log 44 and log 47.) -/
def Obligations.RecordTaken : Prop :=
  ∀ (s : State) (n : Nat) (x : HostRead) (f : Fetch) (bytes all : List Byte), issuedRead n s = some x →
    x.requester = .fetch → bytes.length = x.len → (∀ at', x.issued = some at' → s.now ≤ at' + 50000) →
    s.fetcher.fetch = some f → all = f.first.getD [] ++ bytes →
    ∃ t, exec (.hostReadComplete n bytes) s = .next t ∧
      OnlyIn [.hostPort, .ringFetcher, .scheduler, .responseUnit] s t ∧ (∀ j, j ≠ f.ring → t.ring j = s.ring j) ∧
      (∀ c, c ≠ f.ctx → t.ctx c = s.ctx c) ∧ t.host.writeQ = s.host.writeQ ∧
      if f.first = none ∧ slotsAllowed (bytes.getD 0 0) (byteAt bytes 1) = false then
        t.fetcher.fetch = none ∧ t.sched = s.sched ∧
          if (s.ring f.ring).state = .running ∨ (s.ring f.ring).state = .paused then
            (t.ring f.ring).state = .stopped ∧ (t.ring f.ring).stop = some .badSlots ∧
              (t.ring f.ring).take = (s.ring f.ring).take ∧
              t.resp.posts = s.resp.posts ++
                (if (s.ring f.ring).notice = none ∧ (s.respRing 0).state = .active then [⟨0, .ringStopped f.ring⟩]
                else [])
          else t.ring f.ring = s.ring f.ring ∧ t.resp = s.resp
      else if f.first = none ∧ byteAt bytes 1 ≠ 1 then
        t.sched = s.sched ∧ t.resp = s.resp ∧
          if 2 ≤ ((s.ring f.ring).post + (s.ring f.ring).size - (s.ring f.ring).take) % (s.ring f.ring).size then
            t.fetcher.fetch = some { f with first := some bytes } ∧ t.ring f.ring = s.ring f.ring ∧
              t.host.reads = s.host.reads.filter (fun y => decide (y.number ≠ n)) ++
                [⟨s.host.nextRead, .fetch, (s.ring f.ring).base +
                    BitVec.ofNat 64 (64 * (((s.ring f.ring).take + 1) % (s.ring f.ring).size)), 64,
                  if s.host.linkUp = true ∧ s.host.permitted = true then some s.now else none⟩]
          else
            t.fetcher.fetch = none ∧
              t.ring f.ring =
                if (s.ring f.ring).state = .running ∨ (s.ring f.ring).state = .paused then
                  { s.ring f.ring with held := some (s.ring f.ring).post }
                else s.ring f.ring
      else if (s.ring f.ring).state = .running ∨ (s.ring f.ring).state = .paused then
        t.fetcher.fetch = none ∧
          (t.ring f.ring).take = ((s.ring f.ring).take + byteAt all 1) % (s.ring f.ring).size ∧
          (∀ r, decodeRecord f.ring all = .record r →
            (t.ring f.ring).window = (s.ring f.ring).window ++ [f.ctx] ∧ t.resp = s.resp ∧
              ∃ o, t.ctx f.ctx = some o ∧ o.phase = .waiting ∧ o.body = some r.body ∧ o.tag = r.tag ∧
                o.fence = r.fence ∧ o.noIrq = r.noIrq ∧ o.ring = f.ring ∧ o.take = (s.ring f.ring).take ∧
                o.slots = byteAt all 1) ∧
          ∀ st aux, (decodeRecord f.ring all = .badRecord aux ∧ st = .badRecord) ∨
              (decodeRecord f.ring all = .wrongRing ∧ st = Status.wrongRing ∧ aux = 0) →
            if (s.respRing (s.ring f.ring).resp).state = .active then
              ∃ o, t.ctx f.ctx = some o ∧ o.phase = .done ∧ o.result = some ⟨st, 0, aux⟩ ∧ o.noIrq = false ∧
                t.resp.posts = s.resp.posts ++ [⟨(s.ring f.ring).resp, .completion f.ctx⟩]
            else t.ctx f.ctx = none
      else t.fetcher.fetch = none ∧ t.ring f.ring = s.ring f.ring ∧ t.sched = s.sched ∧ t.resp = s.resp

/-- The ends of host reads (R49, R79, R86, R160): a failed read, by an error, at 50,000 microseconds after its issue,
or when its last byte comes later than that, stops a fetch's ring with FETCH_FAULT unless it had stopped or was
draining, its take index kept, and leaves a DEPOSIT's mover the lowest address at which a failed read began; the bytes
of a DEPOSIT's read that completes are at hand for the store bursts, unless a read of it has failed. Its mover asks in
the same step for as many further reads, of 512 bytes each but for the last, as leave at most 4 outstanding, in ascending
order from the first byte not yet requested (R159); and, none of its accesses being outstanding, for the store burst
whose bytes are now all at hand (R79). After a failed read it asks for nothing more (R86). (That at exactly 50,000
microseconds a read may still complete, and that a permitted read leaves at once, are the model's choices, log 39 and
log 47; when a mover holds back its access is its reading, log 25.) -/
def Obligations.HostReadEnds : Prop :=
  (∀ (s : State) (n : Nat) (x : HostRead) (c : Instr), issuedRead n s = some x →
    c = .hostReadError n ∨ (c = .hostReadTimeout n ∧ ∃ at', x.issued = some at' ∧ at' + 50000 ≤ s.now) ∨
      (∃ bytes at', c = .hostReadComplete n bytes ∧ bytes.length = x.len ∧ x.issued = some at' ∧ at' + 50000 < s.now) →
    ∃ t, exec c s = .next t ∧ OnlyIn [.hostPort, .ringFetcher, .responseUnit, .movers] s t ∧
      t.host.reads = s.host.reads.filter (fun y => y.number ≠ n) ∧
      (∀ f, x.requester = .fetch → s.fetcher.fetch = some f →
        t.fetcher.fetch = none ∧ (t.ring f.ring).take = (s.ring f.ring).take ∧ t.movers = s.movers ∧
          if (s.ring f.ring).state = .running ∨ (s.ring f.ring).state = .paused then
            (t.ring f.ring).state = .stopped ∧ (t.ring f.ring).stop = some .fetchFault
          else t.ring f.ring = s.ring f.ring) ∧
      ∀ m k mv, x.requester = .mover m k → s.mover m = some mv →
        t.fetcher = s.fetcher ∧ t.resp = s.resp ∧
          ∃ a, t.mover m = some { mv with failedAt := some a } ∧ (a = x.addr ∨ mv.failedAt = some a) ∧
            a.toNat ≤ x.addr.toNat ∧ ∀ b, mv.failedAt = some b → a.toNat ≤ b.toNat) ∧
  ∀ (s : State) (n k : Nat) (m : MoverId) (mv : Mover) (x : HostRead) (bytes : List Byte), issuedRead n s = some x →
    x.requester = .mover m k → bytes.length = x.len → (∀ at', x.issued = some at' → s.now ≤ at' + 50000) →
    s.mover m = some mv →
    ∃ t mv', exec (.hostReadComplete n bytes) s = .next t ∧ OnlyIn [.hostPort, .movers, .storeController] s t ∧
      t.store.cells = s.store.cells ∧ t.mover m = some mv' ∧ mv'.ctx = mv.ctx ∧ mv'.written = mv.written ∧
      mv'.failedAt = mv.failedAt ∧
      mv'.arrived = (if mv.failedAt.isSome = true then mv.arrived else mv.arrived ++ [(k, bytes)]) ∧
      (mv.failedAt.isSome = true → t.host.reads = s.host.reads.filter (fun y => decide (y.number ≠ n))) ∧
      (∀ (o : Operation) (b : Body), s.ctx mv.ctx = some o → o.body = some b →
        AsksStore s.store.waiting m mv' o b t) ∧
      ∀ (o : Operation) (l : LineId) (addr : HostAddr) (M total asked more : Nat) (left : List HostRead),
        s.ctx mv.ctx = some o → o.body = some (.deposit l addr M) → o.phase = .moving → mv.failedAt = none →
        total = M * frameSize (s.line l) → mv.hostDone = min total (512 * asked) →
        left = s.host.reads.filter (fun y => decide (y.number ≠ n)) →
        more = min ((total + 511) / 512 - asked) (4 - left.countP fun y =>
          match y.requester with
          | .mover j _ => decide (j = m)
          | .fetch => false
          | .nobody => false) →
        mv'.hostDone = min total (512 * (asked + more)) ∧
          t.host.reads = left ++ (List.range more).map fun i =>
            ⟨s.host.nextRead + i, .mover m (asked + i), addr + BitVec.ofNat 64 (512 * (asked + i)),
              min 512 (total - 512 * (asked + i)),
              if s.host.linkUp = true ∧ s.host.permitted = true then some s.now else none⟩

/-! ### Starting, and the writers -/

/-- When a record starts (R56): exactly when it is first among its ring's WAITING records, with FENCE no record taken
before it is still in its context, and no record taken before it is an uncommitted writer of a line it names. -/
def Obligations.StartOrder : Prop :=
  ∀ (s : State) (k : RingId) (before after : List CtxId) (c : CtxId) (o : Operation) (b : Body),
    (s.ring k).window = before ++ c :: after → c ∉ before → s.ctx c = some o → o.body = some b → o.phase = .waiting →
    (nextStart k s = some (c, b) ↔
      (∀ d ∈ before, s.inPhase d .waiting = false) ∧ (o.fence = true → before = []) ∧
        ∀ d ∈ before, ∀ (q : Operation) (r : Body) (n : LineId), s.ctx d = some q → q.body = some r →
          destOf r = some n → n ∈ namedLines b → q.phase = .done)

/-- The start of a DEPOSIT or SKIP of M frames (R75, R76, R8, R12): NO_LINE, TOO_LONG or POSITION_LIMIT by its line's
entry, else it joins the end of the line's write queue, QUEUED behind another writer, GUARD_WAIT when the guard check
fails, READY otherwise. -/
def Obligations.WriterStart : Prop :=
  ∀ (s : State) (i : Instr) (k : RingId) (c : CtxId) (b : Body) (n : LineId) (addr : HostAddr) (M : Nat),
    (i = .deposit k ∧ b = .deposit n addr M) ∨ (i = .skip k ∧ b = .skip n M) → nextStart k s = some (c, b) →
    ∃ t, exec i s = .next t ∧ OnlyIn [.ringFetcher, .scheduler, .lineTable, .responseUnit] s t ∧
      (∀ j, j ≠ n → t.line j = s.line j) ∧ (∀ d, d ≠ c → t.ctx d = s.ctx d) ∧
      if (s.line n).state ≠ .opened then EndsWith s c ⟨.noLine, 0, 0⟩ t ∧ t.lines = s.lines
      else if (s.line n).cap < M then EndsWith s c ⟨.tooLong, (s.line n).w, (s.line n).cap⟩ t ∧ t.lines = s.lines
      else if 2 ^ 48 - 1 < (s.line n).w + queuedFrames (s.line n) + M then
        EndsWith s c ⟨.positionLimit, (s.line n).w + queuedFrames (s.line n), M⟩ t ∧ t.lines = s.lines
      else
        t.line n = { s.line n with writers := (s.line n).writers ++ [⟨c, M⟩] } ∧ t.fetcher = s.fetcher ∧
          t.resp = s.resp ∧
          if (s.line n).writers ≠ [] then
            t.ctx c = (s.ctx c).map (fun o => { o with phase := .queued }) ∧ t.sched.ready = s.sched.ready
          else if (s.line n).policy = .guarded ∧ guardPasses (t.line n) = false then
            t.ctx c = (s.ctx c).map (fun o => { o with phase := .guardWait }) ∧ t.sched.ready = s.sched.ready
          else t.ctx c = (s.ctx c).map (fun o => { o with phase := .ready }) ∧ t.sched.ready = s.sched.ready ++ [c]

/-- A commit on a line OPEN or CLOSING (R82, R83, R97, R116): W grows by M, F stays, the writer leaves the queue and is
DONE with the new W; a held change of policy takes hold and its SET_LINE is OK (R15); the next writer becomes the active
writer, READY or in GUARD_WAIT (R77); every parked read whose window end W has reached leaves the park list in order, a
TAP ending GONE when its window start lies below O and READY otherwise, a MIX beginning a wake's pass. A rise of the lap
count raises the LAP notice while the line is OPEN (R18, R84); a CLOSING line that nothing holds any more is FREE (R6,
R132). (That the held change and the drain are made within the commit is the model's reading, log 15.) -/
def Obligations.Commit : Prop :=
  ∀ (s : State) (m : MoverId) (mv : Mover) (o : Operation) (b : Body) (n : LineId) (x : Writer) (rest : List Writer)
    (pos aux w : Nat) (woken : List Parked) (raised : Bool) (l : Line),
    s.mover m = some mv → s.ctx mv.ctx = some o → o.body = some b → destOf b = some n → o.phase = .moving →
    (s.line n).state ≠ .free → (s.line n).writers = x :: rest → x.ctx = mv.ctx →
    (o.stage = some (.destination .ok pos aux) ∨
      o.stage = none ∧ (∀ dest a N wait taps, b ≠ .mix dest a N wait taps) ∧ aux = framesOf b ∧
        mv.failedAt = none ∧ NothingOut m s ∧ mv.written = framesOf b * frameSize (s.line n)) →
    ((s.line n).writers.map Writer.ctx ++ (s.line n).park.map Parked.ctx).Nodup →
    (∀ y ∈ (s.line n).writers, y.ctx ≠ 0) → LineOk (s.line n) → w = (s.line n).w + x.frames →
    woken = (s.line n).park.filter (fun y => decide (y.windowEnd ≤ w)) →
    (raised = true ↔ (s.line n).state = .opened ∧ (s.line n).lap.on = true ∧ (s.line n).lapPending = false ∧
      (s.respRing (s.line n).lap.target).state = .active ∧ (s.line n).w / (s.line n).cap < w / (s.line n).cap) →
    l = { s.line n with
      w := w
      policy := if (s.line n).held = true then .guarded else (s.line n).policy
      held := false
      writers := rest
      park := (s.line n).park.filter (fun y => decide (w < y.windowEnd))
      lapPending := (s.line n).lapPending || raised } →
    ∃ t, exec (.commit m) s = .next t ∧
      OnlyIn [.ringFetcher, .scheduler, .lineTable, .parkTimer, .movers, .storeController, .responseUnit] s t ∧
      t.mover m = none ∧ (∀ j, j ≠ m → t.mover j = s.mover j) ∧ (∀ j, j ≠ n → t.line j = s.line j) ∧
      LineLeft s n l t ∧ EndsWith s mv.ctx ⟨.ok, w, aux⟩ t ∧ HeldChangeMade s n w t ∧
      t.parkTimer = s.parkTimer.filter (fun z => decide (z.1 ∉ woken.map Parked.ctx)) ∧
      t.sched.ready = s.sched.ready ++ nextReady l ++
        (woken.filter fun y => tapStays s (oldest l) y.ctx).map Parked.ctx ∧
      (∀ y ys, rest = y :: ys → t.ctx y.ctx = (s.ctx y.ctx).map fun q => { q with phase := nextPhase l }) ∧
      (∀ y ∈ woken, ∀ (q : Operation) (c : Body), s.ctx y.ctx = some q → q.body = some c →
        (∀ j a N wait absolute fld mask, c = .tap j a N wait absolute fld mask →
          if q.starts.headD 0 < oldest l then EndsWith s y.ctx ⟨.gone, oldest l, 2⟩ t
          else t.ctx y.ctx = some { q with phase := .ready }) ∧
        ∀ dest a N wait taps, c = .mix dest a N wait taps →
          t.ctx y.ctx = some { q with phase := .passing, stage := some (.wake 0) }) ∧
      (∀ d, d ≠ 0 → d ≠ mv.ctx → rest.head?.map Writer.ctx ≠ some d → d ∉ woken.map Parked.ctx →
        t.ctx d = s.ctx d) ∧
      (raised = true → ⟨(s.line n).lap.target, .lap n⟩ ∈ t.resp.posts)

/-- The abandoned write on a line OPEN or CLOSING (R3, R86, R87): W is unchanged, F rises over the overwrite range, the
writer leaves the queue, a held change of policy takes hold and its SET_LINE is OK (R15), the next writer becomes the
active writer (R77), and a CLOSING line that nothing holds any more is FREE (R6, R132), all within the step (the model's
reading, log 15); a DEPOSIT whose read failed ends HOST_FAULT with the low 32 bits of the lowest failing address, a MIX
with the status decided at the end of its moving. -/
def Obligations.WriterAbandoned : Prop :=
  ∀ (s : State) (m : MoverId) (mv : Mover) (o : Operation) (b : Body) (n : LineId) (x : Writer) (rest : List Writer)
    (r : Settled) (l : Line),
    s.mover m = some mv → s.ctx mv.ctx = some o → o.body = some b → destOf b = some n → o.phase = .moving →
    (s.line n).state ≠ .free → (s.line n).writers = x :: rest → x.ctx = mv.ctx →
    ((∃ st pos aux, o.stage = some (.destination st pos aux) ∧ st ≠ Status.ok ∧ r = ⟨st, pos, aux⟩) ∨
      ∃ a : HostAddr, o.stage = none ∧ mv.failedAt = some a ∧ NothingOut m s ∧
        r = ⟨.hostFault, (s.line n).w, a.toNat % 2 ^ 32⟩) →
    ((s.line n).writers.map Writer.ctx).Nodup → (∀ y ∈ (s.line n).writers, y.ctx ≠ 0) →
    l = { s.line n with
      f := max (s.line n).f ((s.line n).w + x.frames - (s.line n).cap)
      policy := if (s.line n).held = true then .guarded else (s.line n).policy
      held := false
      writers := rest } →
    ∃ t, exec (.writerAbandoned m) s = .next t ∧
      OnlyIn [.ringFetcher, .scheduler, .lineTable, .movers, .storeController, .responseUnit] s t ∧
      t.mover m = none ∧ (∀ j, j ≠ m → t.mover j = s.mover j) ∧ (∀ j, j ≠ n → t.line j = s.line j) ∧
      LineLeft s n l t ∧ EndsWith s mv.ctx r t ∧ HeldChangeMade s n (s.line n).w t ∧
      t.sched.ready = s.sched.ready ++ nextReady l ∧
      (∀ y ys, rest = y :: ys → t.ctx y.ctx = (s.ctx y.ctx).map fun q => { q with phase := nextPhase l }) ∧
      ∀ d, d ≠ 0 → d ≠ mv.ctx → rest.head?.map Writer.ctx ≠ some d → t.ctx d = s.ctx d

/-! ### Taps -/

/-- The start of a TAP (R91 to R95): its line's state, its N, its mask, its window against 0, the position limit and
O′, in this order; a window up to W makes it READY, a later one parks it until its wait has passed, and leaves it
no tap number to report at an expiry, whose aux is then 0 (R96), or ends NOT_READY with a wait of 0. -/
def Obligations.TapStart : Prop :=
  ∀ (s : State) (k : RingId) (c : CtxId) (n : LineId) (addr : HostAddr) (N wait : Nat) (absolute : Bool) (fld p : Nat)
    (mask : BitVec 16), nextStart k s = some (c, .tap n addr N wait absolute fld mask) →
    p = (if absolute = true then fld else (s.line n).w - fld) →
    ∃ t, exec (.tap k) s = .next t ∧ OnlyIn [.ringFetcher, .scheduler, .lineTable, .parkTimer, .responseUnit] s t ∧
      (∀ j, j ≠ n → t.line j = s.line j) ∧ (∀ d, d ≠ c → t.ctx d = s.ctx d) ∧
      if (s.line n).state ≠ .opened then EndsWith s c ⟨.noLine, 0, 0⟩ t ∧ t.lines = s.lines
      else if (s.line n).cap < N then EndsWith s c ⟨.tooLong, (s.line n).w, (s.line n).cap⟩ t ∧ t.lines = s.lines
      else if 2 ^ (s.line n).channels ≤ mask.toNat then
        EndsWith s c ⟨.badShape, 0, (s.line n).channels⟩ t ∧ t.lines = s.lines
      else if absolute = false ∧ (s.line n).w < fld then
        EndsWith s c ⟨.gone, oldestCounting (s.line n), 1⟩ t ∧ t.lines = s.lines
      else if 2 ^ 48 - 1 < p + N then EndsWith s c ⟨.positionLimit, p, N⟩ t ∧ t.lines = s.lines
      else if p < oldestCounting (s.line n) then
        EndsWith s c ⟨.gone, oldestCounting (s.line n), 1⟩ t ∧ t.lines = s.lines
      else if p + N ≤ (s.line n).w then
        t.lines = s.lines ∧ t.parkTimer = s.parkTimer ∧ t.sched.ready = s.sched.ready ++ [c] ∧
          t.ctx c = (s.ctx c).map fun o => { o with phase := .ready, starts := o.starts ++ [p] }
      else if wait = 0 then EndsWith s c ⟨.notReady, (s.line n).w, 0⟩ t ∧ t.lines = s.lines
      else
        t.parkTimer = s.parkTimer ++ [(c, s.now + wait)] ∧ t.sched.ready = s.sched.ready ∧
          t.line n =
            { s.line n with
              park := ((s.line n).park.takeWhile fun x => decide (x.windowEnd ≤ p + N)) ++
                ⟨c, p + N⟩ :: (s.line n).park.dropWhile fun x => decide (x.windowEnd ≤ p + N) } ∧
          ∃ o, t.ctx c = some o ∧ o.phase = .parked ∧ o.deadline = some (s.now + wait) ∧ o.waitTap = 0 ∧
            ∀ q, s.ctx c = some q → o.starts = q.starts ++ [p] ∧ o.body = q.body

/-- The re-check of a TAP granted a mover (R100, R131): GONE when its line has closed, with the greatest position as
bound, or when its window start lies below O′; else it is MOVING, pinned from p to e, its mover bound, which asks for the
first burst of its run from p on (R101). (Any CLOSING state cancels the mark of a close: the model's choice, log 42; when
a mover holds back its access: its reading, log 25.) -/
def Obligations.TapGrant : Prop :=
  ∀ (s : State) (c : CtxId) (o : Operation) (n : LineId) (addr : HostAddr) (N wait : Nat) (absolute : Bool) (fld : Nat)
    (mask : BitVec 16), bestOf s s.sched.ready = some c → (∃ m, s.mover m = none) → s.ctx c = some o →
    o.body = some (.tap n addr N wait absolute fld mask) →
    ∃ t m, exec .moverGrant s = .next t ∧ s.mover m = none ∧
      OnlyIn [.ringFetcher, .scheduler, .lineTable, .movers, .storeController, .responseUnit] s t ∧
      t.store.cells = s.store.cells ∧ (∀ j, j ≠ n → t.line j = s.line j) ∧ (∀ d, d ≠ c → t.ctx d = s.ctx d) ∧
      c ∉ t.sched.ready ∧
      if n ∈ o.marks ∧ (s.line n).state ≠ .closing then
        EndsWith s c ⟨.gone, 2 ^ 48 - 1, 3⟩ t ∧ t.movers = s.movers ∧ t.lines = s.lines
      else if o.starts.headD 0 < oldestCounting (s.line n) then
        EndsWith s c ⟨.gone, oldestCounting (s.line n), 3⟩ t ∧ t.movers = s.movers ∧ t.lines = s.lines
      else
        t.ctx c = some { o with phase := .moving } ∧
          t.line n =
            { s.line n with pins := (s.line n).pins ++ [⟨c, o.starts.headD 0, o.starts.headD 0 + N⟩] } ∧
          ∃ mv, t.mover m = some mv ∧ mv.ctx = c ∧ mv.runs = [⟨n, o.starts.headD 0, N, []⟩] ∧ mv.hostDone = 0 ∧
            mv.failedAt = none ∧
            AsksStore s.store.waiting m mv { o with phase := .moving } (.tap n addr N wait absolute fld mask) t

/-- The end of a TAP's moving (R104 to R106): DATA_ERROR with the first bad position; else OVERTAKEN when p lies below
the overtake bound, which counts an active writer only while it is MOVING; else OK. Its pin and mover are given back: a
writer that the pin alone held in GUARD_WAIT is READY (R13), and a CLOSING line that nothing holds any more is FREE (R6,
R132) within the step (the model's reading, log 15). -/
def Obligations.TapEnd : Prop :=
  ∀ (s : State) (m : MoverId) (mv : Mover) (o : Operation) (n : LineId) (addr : HostAddr) (N wait : Nat)
    (absolute : Bool) (fld : Nat) (mask : BitVec 16) (l : Line), s.mover m = some mv → s.ctx mv.ctx = some o →
    o.body = some (.tap n addr N wait absolute fld mask) → o.phase = .moving →
    RunsWhole s mv → NothingOut m s →
    mv.hostDone = 4 * (selectedChannels (s.line n) mask).length * N →
    l = { s.line n with pins := (s.line n).pins.filter fun x => decide (x.ctx ≠ mv.ctx) } →
    ∃ t, exec (.tapEndOfMoving m) s = .next t ∧
      OnlyIn [.ringFetcher, .scheduler, .lineTable, .movers, .storeController, .responseUnit] s t ∧
      t.mover m = none ∧ (∀ j, j ≠ m → t.mover j = s.mover j) ∧ (∀ j, j ≠ n → t.line j = s.line j) ∧
      LineLeft s n l t ∧ GuardRetested s l t ∧
      EndsWith s mv.ctx
        (match mv.firstBad with
        | some x => ⟨.dataError, x.1, N⟩
        | none =>
          if o.starts.headD 0 < max (s.line n).f ((s.line n).w + movingFrames n s - (s.line n).cap) then
            ⟨.overtaken, o.starts.headD 0, N⟩
          else ⟨.ok, o.starts.headD 0, N⟩) t

/-- The expiry of a parked read's deadline (R96, R17, R117): the read leaves the park list and ends EXPIRED with its
line's W and the number of the tap it waited for, which is 0 for a TAP (TapStart gives it so), and a CLOSING line that nothing holds any more is FREE (R6, R132) within
the step (the model's reading, log 15); once a commit walk or a close has taken it, nothing happens. -/
def Obligations.ParkExpiry : Prop :=
  ∀ (s : State) (c : CtxId) (o : Operation) (n : LineId), s.ctx c = some o → parkedLine o = some n →
    (∀ (d e : Nat) (l : Line), (c, d) ∈ s.parkTimer → d ≤ s.now → ⟨c, e⟩ ∈ (s.line n).park →
      l = { s.line n with park := (s.line n).park.filter fun x => decide (x.ctx ≠ c) } →
      ∃ t, exec (.parkDeadlineExpiry c) s = .next t ∧
        OnlyIn [.ringFetcher, .scheduler, .lineTable, .parkTimer, .storeController, .responseUnit] s t ∧
        EndsWith s c ⟨.expired, (s.line n).w, o.waitTap⟩ t ∧ (∀ j, j ≠ n → t.line j = s.line j) ∧
        t.parkTimer = s.parkTimer.filter (fun x => decide (x.1 ≠ c)) ∧ t.sched.ready = s.sched.ready ∧
        LineLeft s n l t) ∧
    ((∀ x ∈ (s.line n).park, x.ctx ≠ c) → exec (.parkDeadlineExpiry c) s = .next s)

/-! ### Mixes -/

/-- A visit of a MIX's shape pass, to a tap's line or the destination (R112): NO_LINE, TOO_LONG or BAD_SHAPE, else the
next visit: the next tap's, then the destination's, then the placement pass. Tap 1's channel count is read at the
visit (the model's choice, log 40). -/
def Obligations.MixShapePass : Prop :=
  ∀ (s : State) (cmd : Instr) (k : RingId) (c : CtxId) (o : Operation) (dest : Option LineId) (addr : HostAddr)
    (N wait : Nat) (taps : List MixTap) (i : Nat) (n : LineId) (number : Nat), taps ≠ [] → s.ctx c = some o →
    (cmd = .mix k ∧ nextStart k s = some (c, .mix dest addr N wait taps) ∧ i = 0) ∨
      (cmd = .mixLineVisit c ∧ o.body = some (.mix dest addr N wait taps) ∧ o.stage = some (.shape i) ∧
        o.phase = .passing) →
    (∃ x, taps[i]? = some x ∧ n = x.line ∧ number = i + 1) ∨ (i = taps.length ∧ dest = some n ∧ number = 0) →
    ∃ t, exec cmd s = .next t ∧ OnlyIn [.ringFetcher, .scheduler, .responseUnit] s t ∧
      (∀ d, d ≠ c → t.ctx d = s.ctx d) ∧ t.sched.ready = s.sched.ready ∧
      if (s.line n).state ≠ .opened then EndsWith s c ⟨.noLine, 0, number⟩ t
      else if (s.line n).cap < N then EndsWith s c ⟨.tooLong, (s.line n).w, (s.line n).cap⟩ t
      else if (taps.head?.map fun x => (s.line x.line).channels) ≠ some (s.line n).channels then
        EndsWith s c ⟨.badShape, 0, number⟩ t
      else
        t.ctx c = some { o with
          phase := .passing
          stage := some (if i + 1 < taps.length ∨ (i + 1 = taps.length ∧ dest.isSome = true) then .shape (i + 1)
            else .place 0) }

/-- A visit of the placement pass of a MIX's start to tap i's line (R113): NO_LINE, GONE with stage 1, POSITION_LIMIT
or NOT_READY; a satisfied tap keeps its window start and leads to the next, the last one to the destination's visit or
READY; another parks the MIX. -/
def Obligations.MixPlacement : Prop :=
  ∀ (s : State) (c : CtxId) (o : Operation) (dest : Option LineId) (addr : HostAddr) (N wait : Nat)
    (taps : List MixTap) (i : Nat) (x : MixTap) (l : Line) (p : Nat), s.ctx c = some o →
    o.body = some (.mix dest addr N wait taps) → o.stage = some (.place i) → taps[i]? = some x → l = s.line x.line →
    p = (if x.absolute = true then x.field else l.w - x.field) →
    ∃ t, exec (.mixLineVisit c) s = .next t ∧
      OnlyIn [.ringFetcher, .scheduler, .lineTable, .parkTimer, .responseUnit] s t ∧
      (∀ j, j ≠ x.line → t.line j = s.line j) ∧ (∀ d, d ≠ c → t.ctx d = s.ctx d) ∧
      if x.line ∈ o.marks ∨ l.state ≠ .opened then EndsWith s c ⟨.noLine, 0, i + 1⟩ t ∧ t.lines = s.lines
      else if x.absolute = false ∧ l.w < x.field then
        EndsWith s c ⟨.gone, oldestCounting l, i + 1 + 256 * 1⟩ t ∧ t.lines = s.lines
      else if 2 ^ 48 - 1 < p + N then EndsWith s c ⟨.positionLimit, p, i + 1⟩ t ∧ t.lines = s.lines
      else if p < oldestCounting l then
        EndsWith s c ⟨.gone, oldestCounting l, i + 1 + 256 * 1⟩ t ∧ t.lines = s.lines
      else if p + N ≤ l.w then
        t.lines = s.lines ∧ t.parkTimer = s.parkTimer ∧
          if i + 1 < taps.length then
            t.ctx c = some { o with starts := o.starts ++ [p], stage := some (.place (i + 1)) } ∧
              t.sched.ready = s.sched.ready
          else if dest.isSome = true then
            t.ctx c = some { o with starts := o.starts ++ [p], stage := some .join } ∧ t.sched.ready = s.sched.ready
          else
            t.ctx c = some { o with starts := o.starts ++ [p], stage := none, phase := .ready } ∧
              t.sched.ready = s.sched.ready ++ [c]
      else if wait = 0 then EndsWith s c ⟨.notReady, l.w, i + 1⟩ t ∧ t.lines = s.lines
      else
        t.parkTimer = s.parkTimer ++ [(c, s.now + wait)] ∧ t.sched.ready = s.sched.ready ∧
          t.line x.line =
            { l with
              park := (l.park.takeWhile fun y => decide (y.windowEnd ≤ p + N)) ++
                ⟨c, p + N⟩ :: l.park.dropWhile fun y => decide (y.windowEnd ≤ p + N) } ∧
          t.ctx c = some { o with
            starts := o.starts ++ [p]
            phase := .parked
            stage := none
            deadline := some (s.now + wait)
            waitTap := i + 1 }

/-- A visit of a wake's placement pass to tap i's line (R116): as at the start, but against O, with stage 2, with the
window starts kept, and a tap not yet satisfied parks the MIX again with its first deadline or ends it EXPIRED once that
has been reached. After the last tap a destination marked as closed ends it NO_LINE. -/
def Obligations.MixWake : Prop :=
  ∀ (s : State) (c : CtxId) (o : Operation) (dest : Option LineId) (addr : HostAddr) (N wait : Nat)
    (taps : List MixTap) (i : Nat) (x : MixTap) (l : Line) (p : Nat) (kept : Operation), s.ctx c = some o →
    o.body = some (.mix dest addr N wait taps) → o.stage = some (.wake i) → taps[i]? = some x → l = s.line x.line →
    p = (o.starts[i]?).getD (if x.absolute = true then x.field else l.w - x.field) →
    kept = (if o.starts.length ≤ i then { o with starts := o.starts ++ [p] } else o) →
    ∃ t, exec (.mixLineVisit c) s = .next t ∧
      OnlyIn [.ringFetcher, .scheduler, .lineTable, .parkTimer, .responseUnit] s t ∧
      (∀ j, j ≠ x.line → t.line j = s.line j) ∧ (∀ d, d ≠ c → t.ctx d = s.ctx d) ∧
      if x.line ∈ o.marks ∨ l.state ≠ .opened then EndsWith s c ⟨.noLine, 0, i + 1⟩ t ∧ t.lines = s.lines
      else if o.starts.length ≤ i ∧ x.absolute = false ∧ l.w < x.field then
        EndsWith s c ⟨.gone, oldest l, i + 1 + 256 * 2⟩ t ∧ t.lines = s.lines
      else if 2 ^ 48 - 1 < p + N then EndsWith s c ⟨.positionLimit, p, i + 1⟩ t ∧ t.lines = s.lines
      else if p < oldest l then EndsWith s c ⟨.gone, oldest l, i + 1 + 256 * 2⟩ t ∧ t.lines = s.lines
      else if p + N ≤ l.w then
        t.lines = s.lines ∧ t.parkTimer = s.parkTimer ∧
          if i + 1 < taps.length then
            t.ctx c = some { kept with stage := some (.wake (i + 1)) } ∧ t.sched.ready = s.sched.ready
          else match dest with
            | none =>
              t.ctx c = some { kept with stage := none, phase := .ready } ∧ t.sched.ready = s.sched.ready ++ [c]
            | some n =>
              t.sched.ready = s.sched.ready ∧
                if n ∈ o.marks then EndsWith s c ⟨.noLine, 0, 0⟩ t
                else t.ctx c = some { kept with stage := some .join }
      else if o.deadline.getD 0 ≤ s.now then EndsWith s c ⟨.expired, l.w, i + 1⟩ t ∧ t.lines = s.lines
      else
        t.parkTimer = s.parkTimer ++ [(c, o.deadline.getD 0)] ∧ t.sched.ready = s.sched.ready ∧
          t.line x.line =
            { l with
              park := (l.park.takeWhile fun y => decide (y.windowEnd ≤ p + N)) ++
                ⟨c, p + N⟩ :: l.park.dropWhile fun y => decide (y.windowEnd ≤ p + N) } ∧
          t.ctx c = some { kept with
            phase := .parked
            stage := none
            deadline := some (o.deadline.getD 0)
            waitTap := i + 1 }

/-- The visit of a MIX to its destination line (R118): a closed mark or a line not OPEN ends it NO_LINE; the admission
checks of a writer follow; then it joins the write queue as a DEPOSIT of N frames does. -/
def Obligations.MixJoin : Prop :=
  ∀ (s : State) (c : CtxId) (o : Operation) (n : LineId) (addr : HostAddr) (N wait : Nat) (taps : List MixTap),
    s.ctx c = some o → o.body = some (.mix (some n) addr N wait taps) → o.stage = some .join →
    ∃ t, exec (.mixLineVisit c) s = .next t ∧ OnlyIn [.ringFetcher, .scheduler, .lineTable, .responseUnit] s t ∧
      (∀ j, j ≠ n → t.line j = s.line j) ∧ (∀ d, d ≠ c → t.ctx d = s.ctx d) ∧
      if n ∈ o.marks ∨ (s.line n).state ≠ .opened then EndsWith s c ⟨.noLine, 0, 0⟩ t ∧ t.lines = s.lines
      else if (s.line n).cap < N then EndsWith s c ⟨.tooLong, (s.line n).w, (s.line n).cap⟩ t ∧ t.lines = s.lines
      else if 2 ^ 48 - 1 < (s.line n).w + queuedFrames (s.line n) + N then
        EndsWith s c ⟨.positionLimit, (s.line n).w + queuedFrames (s.line n), N⟩ t ∧ t.lines = s.lines
      else
        t.line n = { s.line n with writers := (s.line n).writers ++ [⟨c, N⟩] } ∧ t.fetcher = s.fetcher ∧
          t.resp = s.resp ∧
          t.ctx c = some { o with
            stage := none
            phase := if (s.line n).writers ≠ [] then .queued
              else if (s.line n).policy = .guarded ∧ guardPasses (t.line n) = false then .guardWait else .ready } ∧
          t.sched.ready = s.sched.ready ++
            if (s.line n).writers = [] ∧ ¬((s.line n).policy = .guarded ∧ guardPasses (t.line n) = false) then [c]
            else []

/-- A visit of a MIX's re-check (R119), the first within its mover grant (log 13), which binds the lowest-numbered free
mover (the model's choice, log 10), to its k-th distinct source line in the order of first appearance: NO_LINE when the line has closed (any CLOSING state cancels the mark: the model's choice, log 42), GONE with stage 3 when
a tap there starts below O′. Either gives the mover back, removes the earlier pins, and takes a MIX into a line from the
head of its destination's queue with W and F unchanged, a held change of policy taking hold (log 17) and the next writer
becoming active; a CLOSING line that this leaves held by nothing is FREE, its extents returned and its CLOSE_LINE OK (R6,
R132). Else one pin spans the line's windows, from the least p to the greatest p + N of the MIX's taps there (R11), and
after the last line the MIX is MOVING with one run for each tap, and its mover asks for its first burst, that of the first
tap's run (the model's choice, log 18), unless it holds back (its reading, log 25). (That the pins go in the failing step and the drains are made there is the model's
reading, log 13 and log 15.) -/
def Obligations.MixGrant : Prop :=
  (∀ ns : List LineId, (firstAppearances ns).Nodup ∧ (∀ n, n ∈ firstAppearances ns ↔ n ∈ ns) ∧
    (firstAppearances ns).Pairwise fun i j => ns.idxOf i < ns.idxOf j) ∧
  ∀ (s : State) (cmd : Instr) (m : MoverId) (mv : Mover) (c : CtxId) (o : Operation) (dest : Option LineId)
    (addr : HostAddr) (N wait : Nat) (taps : List MixTap) (k : Nat) (n : LineId) (earlier : List LineId)
    (gone : Option Nat) (left : LineId → Line) (drains : LineId → Bool),
    (cmd = .mixLineVisit c ∧ s.mover m = some mv ∧ mv.ctx = c ∧ (∀ m' x, s.mover m' = some x → x.ctx = c → m' = m) ∧
        o.stage = some (.grant k)) ∨
      (cmd = .moverGrant ∧ k = 0 ∧ bestOf s s.sched.ready = some c ∧ s.mover m = none ∧
        (∀ j, j < m → s.mover j ≠ none) ∧ mv = freshMover c) →
    s.ctx c = some o → o.body = some (.mix dest addr N wait taps) → o.phase = .ready →
    (firstAppearances (taps.map MixTap.line))[k]? = some n →
    (∀ j, dest = some j → ((s.line j).writers.map Writer.ctx).Nodup ∧ (s.line j).writers.head?.map Writer.ctx = some c ∧
      ∀ y ∈ (s.line j).writers, y.ctx ≠ 0) →
    earlier = (firstAppearances (taps.map MixTap.line)).take k →
    LowestTapBelow n taps o.starts (oldestCounting (s.line n)) gone →
    (∀ j, left j =
      { s.line j with
        pins := if j ∈ earlier then (s.line j).pins.filter (fun x => decide (x.ctx ≠ c)) else (s.line j).pins
        writers := if dest = some j then (s.line j).writers.tail else (s.line j).writers
        policy := if dest = some j ∧ (s.line j).held = true then .guarded else (s.line j).policy
        held := if dest = some j then false else (s.line j).held }) →
    (∀ j, drains j = true ↔ (j ∈ earlier ∨ dest = some j) ∧ (s.line j).state = .closing ∧ (left j).writers = [] ∧
      (left j).park = [] ∧ (left j).pins = []) →
    ∃ t, exec cmd s = .next t ∧
      OnlyIn [.ringFetcher, .scheduler, .lineTable, .movers, .storeController, .responseUnit] s t ∧
      t.store.cells = s.store.cells ∧ (∀ j, j ≠ m → t.mover j = s.mover j) ∧
      match (if n ∈ o.marks ∧ (s.line n).state ≠ .closing then
          some (⟨.noLine, 0, taps.findIdx (fun x => decide (x.line = n)) + 1⟩ : Settled)
        else gone.map fun i => (⟨.gone, oldestCounting (s.line n), i + 1 + 256 * 3⟩ : Settled)) with
      | some r =>
        EndsWith s c r t ∧ t.mover m = none ∧ (∀ j, t.line j = if drains j = true then Line.freeLine else left j) ∧
          t.store = { s.store with
            freeExts := ((earlier.filter (fun j => decide (dest ≠ some j)) ++ dest.toList).filter drains).foldl
              (fun es j => returnExtents (s.line j).extents es) s.store.freeExts } ∧
          (∀ j, drains j = true → ∀ q, s.ctx 0 = some q → q.body = some (.closeLine j) → q.phase = .acting →
            EndsWith s 0 ⟨.ok, (s.line j).w, q.ended⟩ t) ∧
          ∀ j, dest = some j → HeldChangeMade s j (s.line j).w t ∧
            ∀ y ys, (left j).writers = y :: ys → (t.inPhase y.ctx (nextPhase (left j)) = true ∨ s.ctx y.ctx = none) ∧
              ∀ d ∈ nextReady (left j), d ∈ t.sched.ready
      | none =>
        (∃ lo hi, t.line n = { s.line n with pins := (s.line n).pins ++ [⟨c, lo, hi⟩] } ∧
            (∀ (i : Nat) (x : MixTap) (p : Nat), taps[i]? = some x → x.line = n → o.starts[i]? = some p →
              lo ≤ p ∧ p + N ≤ hi) ∧
            (taps.length ≤ o.starts.length →
              (∃ (i : Nat) (x : MixTap), taps[i]? = some x ∧ x.line = n ∧ o.starts[i]? = some lo) ∧
                ∃ (i : Nat) (x : MixTap) (p : Nat),
                  taps[i]? = some x ∧ x.line = n ∧ o.starts[i]? = some p ∧ p + N = hi)) ∧
          (∀ j, j ≠ n → t.line j = s.line j) ∧
          t.sched.ready =
            (if cmd = .moverGrant then s.sched.ready.filter (fun d => decide (d ≠ c)) else s.sched.ready) ∧
          if k + 1 < (firstAppearances (taps.map MixTap.line)).length then
            t.ctx c = some { o with stage := some (.grant (k + 1)) } ∧ t.mover m = some mv ∧ t.store = s.store
          else
            t.ctx c = some { o with stage := none, phase := .moving } ∧
              ∃ x, t.mover m = some x ∧ x.ctx = c ∧ x.clips = 0 ∧ x.out = [] ∧ x.hostDone = 0 ∧ x.written = 0 ∧
                x.firstBad = none ∧ x.overtaken = none ∧ x.failedAt = none ∧
                x.runs = ((taps.zip o.starts).map fun y => ⟨y.1.line, y.2, N, []⟩) ∧
                AsksStore s.store.waiting m x { o with stage := none, phase := .moving }
                  (.mix dest addr N wait taps) t

/-- A visit of the end of a MIX's moving, to its k-th distinct source line (R123, R124), begun once every run is read
whole and 4 times its channels times N bytes are handed over to the host or stored in its destination, with nothing
outstanding: the lowest tap overtaken there, its window start below the overtake bound (R104), is remembered and the pin removed, which may release a writer from GUARD_WAIT (R13) and leave a CLOSING line held by
nothing, which then is FREE (R6, R132); after the last line the status is DATA_ERROR, OVERTAKEN or OK in this order,
and a MIX with a host destination is DONE with it, its mover free, while one into a line goes on to its end there,
which is a command of its own (the model's choice, log 14; the drain within the step: its reading, log 15). -/
def Obligations.MixEnd : Prop :=
  ∀ (s : State) (cmd : Instr) (m : MoverId) (mv : Mover) (o : Operation) (dest : Option LineId) (addr : HostAddr)
    (N wait : Nat) (taps : List MixTap) (k : Nat) (n : LineId) (found ovt : Option Nat) (r : Settled)
    (l : Line),
    s.mover m = some mv → (∀ m' x, s.mover m' = some x → x.ctx = mv.ctx → m' = m) → s.ctx mv.ctx = some o →
    o.body = some (.mix dest addr N wait taps) → o.phase = .moving →
    (cmd = .mixLineVisit mv.ctx ∧ o.stage = some (.ending k)) ∨
      (cmd = .mixEndOfMoving m ∧ o.stage = none ∧ k = 0 ∧ RunsWhole s mv ∧ NothingOut m s ∧
        (dest = none → ∀ x xs, taps = x :: xs → mv.hostDone = 4 * (s.line x.line).channels * N) ∧
        ∀ j, dest = some j → mv.written = 4 * (s.line j).channels * N) →
    (firstAppearances (taps.map MixTap.line))[k]? = some n →
    LowestTapBelow n taps o.starts (max (s.line n).f ((s.line n).w + movingFrames n s - (s.line n).cap)) found →
    ovt = (match mv.overtaken, found with
      | none, y => y
      | some x, none => some x
      | some x, some y => some (min x y)) →
    r = (match mv.firstBad, ovt with
      | some x, _ => ⟨.dataError, x.1, x.2⟩
      | none, some i => ⟨.overtaken, o.starts.getD i 0, mv.clips⟩
      | none, none => ⟨.ok, o.starts.headD 0, mv.clips⟩) →
    l = { s.line n with pins := (s.line n).pins.filter fun x => decide (x.ctx ≠ mv.ctx) } →
    ∃ t, exec cmd s = .next t ∧
      OnlyIn [.ringFetcher, .scheduler, .lineTable, .movers, .storeController, .responseUnit] s t ∧
      (∀ j, j ≠ n → t.line j = s.line j) ∧ LineLeft s n l t ∧ GuardRetested s l t ∧
      (∀ j, j ≠ m → t.mover j = s.mover j) ∧
      if k + 1 < (firstAppearances (taps.map MixTap.line)).length then
        t.ctx mv.ctx = some { o with stage := some (.ending (k + 1)) } ∧
          t.mover m = some { mv with overtaken := ovt }
      else if dest = none then EndsWith s mv.ctx r t ∧ t.mover m = none
      else
        t.ctx mv.ctx = some { o with stage := some (.destination r.status r.pos r.aux) } ∧
          t.mover m = some { mv with overtaken := ovt }

/-! ### Grants -/

/-- The mover arbiter and the grant of a writer (R79, R80, R156 to R159): the operation chosen has the highest rank and
of that rank became READY first; a DEPOSIT or SKIP becomes MOVING with a free mover, and a DEPOSIT's mover asks for its
first host reads of at most 512 bytes, in ascending order, up to 4, and a SKIP's for its first store burst, of zeros, at
position W on. (Rank 4 for ring 0's rank above level 3 is the model's choice, log 33; when a mover holds back its access:
its reading, log 25.) -/
def Obligations.MoverGrant : Prop :=
  (∀ (s : State) (l : List CtxId), (bestOf s l = none ↔ l = []) ∧
    ∀ c, bestOf s l = some c → ∃ before after, l = before ++ c :: after ∧
      (∀ d ∈ before, rankOf d s < rankOf c s) ∧ ∀ d ∈ after, rankOf d s ≤ rankOf c s) ∧
  (∀ (s : State) (c : CtxId) (o : Operation), s.ctx c = some o →
    rankOf c s = if o.ring = 0 then 4 else (s.ring o.ring).prio) ∧
  ∀ (s : State) (c : CtxId) (o : Operation) (b : Body) (n : LineId) (addr : HostAddr) (M total : Nat),
    bestOf s s.sched.ready = some c → (∃ m, s.mover m = none) → s.ctx c = some o → o.body = some b →
    b = .deposit n addr M ∨ b = .skip n M → total = M * frameSize (s.line n) →
    (∀ x ∈ s.host.reads, ∀ m k, x.requester = .mover m k → s.mover m ≠ none) →
    ∃ t m mv, exec .moverGrant s = .next t ∧ s.mover m = none ∧
      OnlyIn [.hostPort, .scheduler, .movers, .storeController] s t ∧ t.store.cells = s.store.cells ∧
      t.sched.ready = s.sched.ready.filter (fun d => decide (d ≠ c)) ∧
      (∀ d, t.ctx d = if d = c then some { o with phase := .moving } else s.ctx d) ∧
      (∀ j, j ≠ m → t.mover j = s.mover j) ∧ t.mover m = some mv ∧ mv.ctx = c ∧ mv.written = 0 ∧
      mv.failedAt = none ∧ mv.arrived = [] ∧ AsksStore s.store.waiting m mv { o with phase := .moving } b t ∧
      if b = .deposit n addr M then
        (t.host.reads.drop s.host.reads.length).map (fun x => (x.requester, x.addr, x.len)) =
          (List.range (min 4 ((total + 511) / 512))).map (fun i =>
            (Requester.mover m i, addr + BitVec.ofNat 64 (512 * i), min 512 (total - 512 * i)))
      else t.host.reads = s.host.reads

/-- The queries (R136 to R138): READY at the start; at the grant the whole report is gathered and the query is MOVING;
the report is handed over as one host write at its buffer, or two where it crosses from 2^64 - 1 to 0 (R179), the query
is DONE with the values of the gathering, and its mover is free. -/
def Obligations.Queries : Prop :=
  (∀ (s : State) (c : CtxId) (cmd : Instr) (b : Body), nextStart 0 s = some (c, b) →
    (∃ n addr, cmd = .queryLine ∧ b = .queryLine n addr) ∨ (∃ addr, cmd = .queryStore ∧ b = .queryStore addr) →
    ∃ t, exec cmd s = .next t ∧ OnlyIn [.scheduler] s t ∧ t.sched.ready = s.sched.ready ++ [c] ∧
      ∀ d, t.ctx d = if d = c then (s.ctx c).map (fun o => { o with phase := .ready }) else s.ctx d) ∧
  (∀ (s : State) (c : CtxId) (o : Operation) (b : Body) (report : List Byte) (pos aux : Nat),
    bestOf s s.sched.ready = some c → (∃ m, s.mover m = none) → s.ctx c = some o → o.body = some b →
    (∃ n addr, b = .queryLine n addr ∧ report = lineReport n (s.line n) ∧ pos = (s.line n).w ∧
        aux = lineCode (s.line n).state) ∨
      (∃ addr, b = .queryStore addr ∧ report = storeReport s.store ∧ pos = 0 ∧ aux = blocksOf s.store.freeExts) →
    ∃ t m mv, exec .moverGrant s = .next t ∧ s.mover m = none ∧ OnlyIn [.scheduler, .movers] s t ∧
      t.ctx c = some { o with phase := .moving } ∧ t.mover m = some mv ∧ mv.ctx = c ∧
      mv.report = some (report, pos, aux)) ∧
  ∀ (s : State) (m : MoverId) (mv : Mover) (o : Operation) (b : Body) (addr : HostAddr) (bytes : List Byte)
    (pos aux : Nat),
    s.mover m = some mv → mv.report = some (bytes, pos, aux) → s.ctx mv.ctx = some o → o.body = some b →
    (∃ n, b = .queryLine n addr) ∨ b = .queryStore addr →
    s.host.waiters = [] → s.host.writeQ.length + 2 ≤ 64 →
    ∃ t, exec (.reportWrite m) s = .next t ∧
      OnlyIn [.hostPort, .ringFetcher, .scheduler, .movers, .storeController, .responseUnit] s t ∧
      t.host.writeQ = s.host.writeQ ++
        (if addr.toNat + bytes.length ≤ 2 ^ 64 then [⟨.report, addr, bytes⟩]
        else [⟨.report, addr, bytes.take (2 ^ 64 - addr.toNat)⟩, ⟨.report, 0, bytes.drop (2 ^ 64 - addr.toNat)⟩]) ∧
      t.mover m = none ∧
      EndsWith s mv.ctx ⟨.ok, pos, aux⟩ t

/-! ### Control records -/

/-- The start of an OPEN_LINE (R127, R128): LINE_BUSY with the line's state, STORE_FAULT, or NO_SPACE with the blocks
needed, each changing no line; else the line is OPEN and empty with its settings and the extents allocated. -/
def Obligations.OpenLine : Prop :=
  ∀ (s : State) (c : CtxId) (n : LineId) (channels : Nat) (policy : Policy) (lap : LapSetting) (C : Nat),
    nextStart 0 s = some (c, .openLine n channels policy lap C) →
    ∃ t, exec .openLine s = .next t ∧
      OnlyIn [.ringFetcher, .scheduler, .lineTable, .storeController, .responseUnit] s t ∧
      (∀ j, j ≠ n → t.line j = s.line j) ∧ (∀ d, d ≠ c → t.ctx d = s.ctx d) ∧ t.store.cells = s.store.cells ∧
      if (s.line n).state ≠ .free then
        EndsWith s c ⟨.lineBusy, 0, lineCode (s.line n).state⟩ t ∧ t.lines = s.lines ∧ t.store = s.store
      else if s.store.state = .fault then
        EndsWith s c ⟨.storeFault, 0, 0⟩ t ∧ t.lines = s.lines ∧ t.store = s.store
      else match allocate (blocksNeeded C channels) s.store.freeExts with
        | none => EndsWith s c ⟨.noSpace, 0, blocksNeeded C channels⟩ t ∧ t.lines = s.lines ∧ t.store = s.store
        | some (taken, rest) =>
          EndsWith s c ⟨.ok, 0, taken.length⟩ t ∧ t.store = { s.store with freeExts := rest } ∧
            t.line n =
              { state := .opened, channels := channels, cap := C, policy := policy, w := 0, f := 0, lap := lap,
                lapPending := false, extents := taken, writers := [], park := [], pins := [], held := false }

/-- The start of a CLOSE_LINE (R129 to R132): LINE_BUSY unless the line is OPEN; else every parked read, and every
writer but one that is READY or MOVING at the head of the queue, ends ABORTED, its deadline gone; a MIX not ended so that
names the line and is PASSING, PARKED, QUEUED, in GUARD_WAIT or READY, and a READY TAP of the line, get closed marks
(R115); the LAP notice is withdrawn; the items of the aborted operations join the post queues in order, the park list's
from the front and then the writers' from the head, each on its own ring's response ring, and the CLOSE_LINE's own after
them if it completes. The line is FREE at once, its extents returned and the CLOSE_LINE
OK with its final W and the operations it ended, when nothing else holds it, else CLOSING (when the marks are given and
the drain tested within the step is the model's reading, log 15 and log 23). (A Response Unit left without an item no
longer waits for a place: the model's choice, log 25.) -/
def Obligations.CloseLine : Prop :=
  ∀ (s : State) (n : LineId) (aborted left : List Writer) (marked : Operation → Bool),
    nextStart 0 s = some (0, .closeLine n) → (∀ o, marked o = true ↔ TakesMark n o) →
    ((s.line n).state ≠ .opened →
      ∃ t, exec .closeLine s = .next t ∧ OnlyIn [.ringFetcher, .scheduler, .responseUnit] s t ∧
        EndsWith s 0 ⟨.lineBusy, 0, lineCode (s.line n).state⟩ t) ∧
    ((s.line n).state = .opened → (∀ x ∈ (s.line n).park, x.ctx ≠ 0) → (∀ x ∈ (s.line n).writers, x.ctx ≠ 0) →
      (∀ x ∈ (s.line n).park, ∀ y ∈ (s.line n).writers, x.ctx ≠ y.ctx) →
      aborted ++ left = (s.line n).writers ∧ ((s.line n).writers = [] ∨
        ∃ x xs, (s.line n).writers = x :: xs ∧ s.inPhase x.ctx .guardWait = true ∧ left = []) ∨
        (∃ x, (s.line n).writers = x :: aborted ∧ s.inPhase x.ctx .guardWait = false ∧ left = [x]) →
      ∃ t, exec .closeLine s = .next t ∧
        OnlyIn [.hostPort, .ringFetcher, .scheduler, .lineTable, .parkTimer, .storeController, .responseUnit] s t ∧
        (Waiter.item ∉ s.host.waiters → Same .hostPort s t) ∧ (∀ j, j ≠ n → t.line j = s.line j) ∧
        t.store.cells = s.store.cells ∧
        (∀ d, d ∈ (s.line n).park.map Parked.ctx ∨ d ∈ aborted.map Writer.ctx → EndsWith s d ⟨.aborted, 0, 0⟩ t) ∧
        t.parkTimer = s.parkTimer.filter (fun z => decide (z.1 ∉ (s.line n).park.map Parked.ctx)) ∧
        t.resp.posts = s.resp.posts.filter (fun x => decide (x.item ≠ .lap n)) ++
          ((s.line n).park.map Parked.ctx ++ aborted.map Writer.ctx ++
            if left = [] ∧ (s.line n).pins = [] then [0] else []).filterMap (completionPost s) ∧
        (∀ d o, d ≠ 0 → d ∉ (s.line n).park.map Parked.ctx → d ∉ aborted.map Writer.ctx → s.ctx d = some o →
          t.ctx d = some (if marked o = true then { o with marks := n :: o.marks } else o)) ∧
        if left = [] ∧ (s.line n).pins = [] then
          t.line n = Line.freeLine ∧ t.store.freeExts = returnExtents (s.line n).extents s.store.freeExts ∧
            EndsWith s 0 ⟨.ok, (s.line n).w, (s.line n).park.length + aborted.length⟩ t
        else
          t.line n =
            { s.line n with state := .closing, park := [], writers := left, lapPending := false } ∧
            t.store = s.store ∧ ∃ o, t.ctx 0 = some o ∧ o.phase = .acting)

/-- The end of a drain (R6, R132): a CLOSING line with no writer, no parked read and no pin returns its extents and is
FREE with the values of a FREE line; its CLOSE_LINE completes OK with the final W and the count of the operations it
ended. The command does so to any state that stands so; in a run from reset the event that lets go of the line has done
it already, and the row finds nothing to do (the model's choice, log 15). -/
def Obligations.LineDrain : Prop :=
  ∀ (s : State) (n : LineId), (s.line n).state = .closing → (s.line n).writers = [] → (s.line n).park = [] →
    (s.line n).pins = [] →
    ∃ t, exec (.lineDrainComplete n) s = .next t ∧
      OnlyIn [.ringFetcher, .scheduler, .lineTable, .storeController, .responseUnit] s t ∧
      (∀ j, t.line j = if j = n then Line.freeLine else s.line j) ∧
      t.store = { s.store with freeExts := returnExtents (s.line n).extents s.store.freeExts } ∧
      ∀ o, s.ctx 0 = some o → o.body = some (.closeLine n) → o.phase = .acting →
        EndsWith s 0 ⟨.ok, (s.line n).w, o.ended⟩ t

/-- The start of a SET_LINE, and the end of a held one (R134, R15): LINE_BUSY unless the line is OPEN; else the lap
settings are taken, and the policy at once, releasing a writer from GUARD_WAIT or sending a READY one whose guard check
fails there, unless the change to GUARDED finds a writer MOVING, or with a mover bound for its re-check (the model's
choice, log 17): then it is held, and SET_LINE stays ACTING until the held change takes hold. SET_LINE_HELD_COMPLETE
makes it take hold in any state in which no writer holds it; in a run from reset the writer's end has done so already
(the model's choice, log 15). -/
def Obligations.SetLine : Prop :=
  (∀ (s : State) (c : CtxId) (n : LineId) (policy : Policy) (lap : LapSetting) (hold : Bool),
    nextStart 0 s = some (c, .setLine n policy lap) → (hold = true ↔ HoldsChange n s) → (∀ x ∈ (s.line n).writers, x.ctx ≠ c) →
    ∃ t, exec .setLine s = .next t ∧ OnlyIn [.ringFetcher, .scheduler, .lineTable, .responseUnit] s t ∧
      (∀ j, j ≠ n → t.line j = s.line j) ∧
      if (s.line n).state ≠ .opened then EndsWith s c ⟨.lineBusy, 0, lineCode (s.line n).state⟩ t ∧ t.lines = s.lines
      else if policy = (s.line n).policy then
        EndsWith s c ⟨.ok, (s.line n).w, 0⟩ t ∧ t.line n = { s.line n with lap := lap } ∧
          t.sched.ready = s.sched.ready
      else if policy = .guarded ∧ hold = true then
        t.line n = { s.line n with lap := lap, held := true } ∧ t.sched.ready = s.sched.ready ∧
          ∃ o, t.ctx c = some o ∧ o.phase = .acting
      else
        EndsWith s c ⟨.ok, (s.line n).w, 0⟩ t ∧ t.line n = { s.line n with lap := lap, policy := policy } ∧
          ∀ x xs, (s.line n).writers = x :: xs →
            (policy = .freeRunning → s.inPhase x.ctx .guardWait = true →
              t.inPhase x.ctx .ready = true ∧ t.sched.ready = s.sched.ready ++ [x.ctx]) ∧
            (policy = .guarded → s.inPhase x.ctx .ready = true →
              if guardPasses (s.line n) = true then t.ctx x.ctx = s.ctx x.ctx ∧ t.sched.ready = s.sched.ready
              else t.inPhase x.ctx .guardWait = true ∧ x.ctx ∉ t.sched.ready)) ∧
  ∀ (s : State) (n : LineId), (s.line n).held = true → ¬HoldsChange n s →
    ∃ t, exec (.setLineHeldComplete n) s = .next t ∧
      OnlyIn [.ringFetcher, .scheduler, .lineTable, .responseUnit] s t ∧
      (∀ j, t.line j = if j = n then { s.line n with policy := .guarded, held := false } else s.line j) ∧
      ∀ o policy lap, s.ctx 0 = some o → o.body = some (.setLine n policy lap) → o.phase = .acting →
        EndsWith s 0 ⟨.ok, (s.line n).w, 0⟩ t

/-- CREATE_RING, PAUSE_RING and RESUME_RING (R58, R61): each takes its ring from the one state it asks for, or ends
RING_BUSY with the ring as it was. -/
def Obligations.RingControl : Prop :=
  (∀ (s : State) (c : CtxId) (o : Operation) (k : RingId) (logSize prio window : Nat) (r : RespId) (base : HostAddr),
    nextStart 0 s = some (c, .createRing k logSize prio window r base) → s.ctx c = some o → o.ring = 0 → k ≠ 0 →
    ∃ t, exec .createRing s = .next t ∧ OnlyIn [.ringFetcher, .scheduler, .responseUnit] s t ∧
      (∀ j, j ≠ k → j ≠ 0 → t.ring j = s.ring j) ∧ (∀ d, d ≠ c → t.ctx d = s.ctx d) ∧
      if (s.ring k).state = .disabled ∧ (s.respRing r).state = .active then
        EndsWith s c ⟨.ok, 0, 0⟩ t ∧
          t.ring k =
            { state := .running, base := base, size := 2 ^ logSize, prio := prio, windowSize := window, resp := r,
              take := 0, post := 0, held := none, stop := none, notice := (s.ring k).notice, window := [] }
      else EndsWith s c ⟨.ringBusy, 0, 0⟩ t ∧ t.ring k = s.ring k) ∧
  ∀ (s : State) (c : CtxId) (o : Operation) (k : RingId) (cmd : Instr) (b : Body) (was becomes : RingState),
    (cmd = .pauseRing ∧ b = .pauseRing k ∧ was = .running ∧ becomes = .paused) ∨
      (cmd = .resumeRing ∧ b = .resumeRing k ∧ was = .paused ∧ becomes = .running) →
    nextStart 0 s = some (c, b) → s.ctx c = some o → o.ring = 0 → k ≠ 0 →
    ∃ t, exec cmd s = .next t ∧ OnlyIn [.ringFetcher, .scheduler, .responseUnit] s t ∧
      (∀ j, j ≠ k → j ≠ 0 → t.ring j = s.ring j) ∧ (∀ d, d ≠ c → t.ctx d = s.ctx d) ∧
      if (s.ring k).state = was then
        EndsWith s c ⟨.ok, 0, 0⟩ t ∧ t.ring k = { s.ring k with state := becomes }
      else EndsWith s c ⟨.ringBusy, 0, 0⟩ t ∧ t.ring k = s.ring k

/-- DELETE_RING and the end of its drain (R59, R60): RING_BUSY for a ring DISABLED or DRAINING; else its WAITING and
PARKED records end ABORTED, the PARKED ones leaving their park lists and the Park Timer, their items joining the post
queue in the order they were taken, and the rest go on; the ring is DRAINING with the contexts still held, those of
aborted records being free at once when the response ring is not ACTIVE. With no context left it is DISABLED, its entry
cleared, and the DELETE_RING OK with its take index. (The zeros of a cleared entry are the model's choice, log 3; the end
of a drain as an event of its own is its reading, log 16.) -/
def Obligations.DeleteRing : Prop :=
  (∀ (s : State) (o : Operation) (k : RingId) (aborted kept : List CtxId), nextStart 0 s = some (0, .deleteRing k) →
    s.ctx 0 = some o → o.ring = 0 → k ≠ 0 → 0 ∉ (s.ring k).window → (s.ring k).window.Nodup →
    (∀ d ∈ (s.ring k).window, ∀ q, s.ctx d = some q → q.ring = k) →
    aborted = (s.ring k).window.filter (fun d => s.inPhase d .waiting || s.inPhase d .parked) →
    kept = (if (s.respRing (s.ring k).resp).state = .active then (s.ring k).window
      else (s.ring k).window.filter fun d => decide (d ∉ aborted)) →
    ∃ t, exec .deleteRing s = .next t ∧
      OnlyIn [.ringFetcher, .scheduler, .lineTable, .parkTimer, .storeController, .responseUnit] s t ∧
      (∀ j, j ≠ k → j ≠ 0 → t.ring j = s.ring j) ∧ t.store.cells = s.store.cells ∧
      if (s.ring k).state = .disabled ∨ (s.ring k).state = .draining then
        EndsWith s 0 ⟨.ringBusy, 0, 0⟩ t ∧ t.ring k = s.ring k ∧ t.lines = s.lines ∧ t.parkTimer = s.parkTimer ∧
          t.store = s.store ∧ ∀ d, d ≠ 0 → t.ctx d = s.ctx d
      else
        (∀ d ∈ aborted, EndsWith s d ⟨.aborted, 0, 0⟩ t) ∧ (∀ d, d ≠ 0 → d ∉ aborted → t.ctx d = s.ctx d) ∧
        t.sched.ready = s.sched.ready ∧
        (∀ z, z ∈ t.parkTimer ↔
          z ∈ s.parkTimer ∧ ¬(z.1 ∈ aborted ∧ ∃ q, s.ctx z.1 = some q ∧ q.phase = .parked ∧ (parkedLine q).isSome = true)) ∧
        (∀ n, (s.line n).state ≠ .closing → { t.line n with park := (s.line n).park } = s.line n ∧
          (t.line n).park.Sublist (s.line n).park ∧
          ∀ y, y ∈ (t.line n).park ↔ y ∈ (s.line n).park ∧
            ¬(y.ctx ∈ aborted ∧ ∃ q, s.ctx y.ctx = some q ∧ q.phase = .parked ∧ parkedLine q = some n)) ∧
        ((∀ n, (s.line n).state ≠ .closing) → t.store = s.store) ∧
        if kept = [] ∧ (∀ f, s.fetcher.fetch = some f → f.ring ≠ k) then
          t.ring k = { CmdRing.disabledRing with notice := (s.ring k).notice } ∧ EndsWith s 0 ⟨.ok, 0, (s.ring k).take⟩ t
        else
          t.ring k = { s.ring k with state := .draining, window := kept } ∧
            (∃ q, t.ctx 0 = some q ∧ q.phase = .acting ∧ q.body = o.body) ∧
            ((s.respRing (s.ring k).resp).state = .active → (∀ n, (s.line n).state ≠ .closing) →
              t.resp.posts = s.resp.posts ++ aborted.map fun d => ⟨(s.ring k).resp, .completion d⟩)) ∧
  ∀ (s : State) (k : RingId), (s.ring k).state = .draining → heldContexts k s = 0 → k ≠ 0 →
    (∀ o, s.ctx 0 = some o → o.ring = 0) →
    ∃ t, exec (.ringDrainComplete k) s = .next t ∧ OnlyIn [.ringFetcher, .scheduler, .responseUnit] s t ∧
      (∀ j, j ≠ k → j ≠ 0 → t.ring j = s.ring j) ∧
      t.ring k = { CmdRing.disabledRing with notice := (s.ring k).notice } ∧
      ∀ o, s.ctx 0 = some o → o.body = some (.deleteRing k) → o.phase = .acting →
        EndsWith s 0 ⟨.ok, 0, (s.ring k).take⟩ t

/-- CREATE_RESPONSE and DELETE_RESPONSE (R142, R143): RING_BUSY unless the ring is ABSENT, or, for a delete, when it is
ABSENT or a command ring is bound to it, named lowest first, and nothing but the record's own end changes; a delete
discards the post queue, clears the pending flag of each discarded LAP notice's line and the slot of any other notice,
frees its completions' contexts and reports the fill index, and every other line, context, notice and item stays. (The zeros of an ABSENT ring's entry are the model's choice, log 3; that a
Response Unit left without an item no longer waits for a place, log 25.) -/
def Obligations.ResponseControl : Prop :=
  (∀ (s : State) (c : CtxId) (o : Operation) (r : RespId) (logSize count : Nat) (interrupt : Bool) (time : Nat)
    (base : HostAddr), nextStart 0 s = some (c, .createResponse r logSize count interrupt time base) →
    s.ctx c = some o → (s.ring o.ring).resp ≠ r →
    ∃ t, exec .createResponse s = .next t ∧ OnlyIn [.ringFetcher, .scheduler, .responseUnit] s t ∧
      (∀ j, j ≠ r → t.respRing j = s.respRing j) ∧ (∀ d, d ≠ c → t.ctx d = s.ctx d) ∧
      if (s.respRing r).state = .absent then
        EndsWith s c ⟨.ok, 0, 0⟩ t ∧
          t.respRing r =
            { state := .active, base := base, size := 2 ^ logSize, fill := 0, phase := true, release := 0,
              unreleased := 0, intOn := interrupt, modCount := count, modTime := time, unsignalled := 0,
              oldest := none, fault := none }
      else EndsWith s c ⟨.ringBusy, 0, 0⟩ t ∧ t.respRing r = s.respRing r) ∧
  ∀ (s : State) (c : CtxId) (o : Operation) (r : RespId) (gone : PostItem → Bool),
    nextStart 0 s = some (c, .deleteResponse r) → s.ctx c = some o → (s.ring o.ring).state ≠ .disabled →
    ⟨r, .completion c⟩ ∉ s.resp.posts → (∀ i, gone i = decide (⟨r, i⟩ ∈ s.resp.posts)) →
    ∃ t, exec .deleteResponse s = .next t ∧
      OnlyIn [.hostPort, .ringFetcher, .scheduler, .lineTable, .storeController, .responseUnit] s t ∧
      (Waiter.item ∉ s.host.waiters → Same .hostPort s t) ∧
      (∀ j, j ≠ r → t.respRing j = s.respRing j) ∧ t.store.cells = s.store.cells ∧ t.sched.ready = s.sched.ready ∧
      (∀ aux : Nat, ((s.respRing r).state = .absent ∧ aux = 0) ∨
          ((s.respRing r).state ≠ .absent ∧ ∃ k, Bound s r k ∧ (∀ j, j < k → ¬Bound s r j) ∧ aux = k.val) →
        EndsWith s c ⟨.ringBusy, 0, aux⟩ t ∧ OnlyIn [.ringFetcher, .scheduler, .responseUnit] s t ∧
          t.resp.rings = s.resp.rings ∧ t.resp.faultSlots = s.resp.faultSlots ∧
          t.resp.posts = s.resp.posts ++ (completionPost s c).toList ∧ (∀ d, d ≠ c → t.ctx d = s.ctx d) ∧
          ∀ k, { t.ring k with window := (s.ring k).window } = s.ring k) ∧
      ((s.respRing r).state ≠ .absent → (∀ k, ¬Bound s r k) →
        EndsWith s c ⟨.ok, 0, (s.respRing r).fill⟩ t ∧ t.respRing r = RespRing.absentRing ∧
          t.resp.posts = s.resp.posts.filter (fun x => decide (x.ring ≠ r)) ++ (completionPost s c).toList ∧
          (∀ n, t.line n = if gone (.lap n) = true then { s.line n with lapPending := false } else s.line n) ∧
          t.store = (if gone .storeFault = true then { s.store with faultPending := false } else s.store) ∧
          (∀ q, t.resp.faultSlots.get q = if gone (.respFaulted q) = true then none else s.resp.faultSlots.get q) ∧
          (∀ d, d ≠ c → t.ctx d = if gone (.completion d) = true then none else s.ctx d) ∧
          ∀ k, { t.ring k with window := (s.ring k).window } =
            { s.ring k with notice := if gone (.ringStopped k) = true then none else (s.ring k).notice })

/-! ### Items -/

/-- The writing of an item, and the moderation time (R146, R147, R153, R154, R161): of the items that can be written the
one that joined first is handed over as one host write of 16 bytes at the fill index, as soon as there is a place and no
requester has waited longer, and otherwise waits for one; the fill index, the phase at its wrap and the unreleased count
move; its context or slot is free. A counted item raises the unsignalled count, the first with the time of its write; at
the moderation count the interrupt is sent, the count is 0 and the time gone: with messages enabled a message of the
vector's address and data follows the item, or, its vector masked, is marked pending. An unsignalled item as old as the
moderation time sends the interrupt too. (That the slot's address is taken modulo 2^64, that the message's address and
data are those at the hand-over, and how the wait for a place is kept are the model's choices, log 44, 46 and 25.) -/
def Obligations.ItemWrite : Prop :=
  (∀ (s : State) (x : Posted) (before after : List Posted) (r : RespRing) (counts interrupt : Bool) (v : MsgVector)
    (item message : HostWrite),
    s.resp.posts = before ++ x :: after →
    (counts = true ↔ ∀ c o, x.item = .completion c → s.ctx c = some o → o.noIrq = false) →
    (∀ y ∈ before, ¬((s.respRing y.ring).state = .active ∧ (s.respRing y.ring).unreleased < (s.respRing y.ring).size)) → r = s.respRing x.ring → r.state = .active →
    r.unreleased < r.size → s.host.waiters = [] ∨ s.host.waiters.head? = some .item → s.host.writeQ.length < 64 →
    (interrupt = true ↔ r.intOn = true ∧ counts = true ∧ r.unsignalled + 1 = r.modCount) →
    v = s.host.vectors.get x.ring → item = ⟨.item x.ring, r.base + BitVec.ofNat 64 (16 * r.fill), itemBytes s r.phase x.item⟩ →
    message = ⟨.message x.ring, v.addr, leBytes 4 v.data.toNat⟩ →
    ∃ t, exec .itemWrite s = .next t ∧ t.pending = s.pending ∧ t.now = s.now ∧ t.store.cells = s.store.cells ∧
      t.parkTimer = s.parkTimer ∧ t.resp.posts = before ++ after ∧ (∃ reads, t.link = s.link ++ reads) ∧
      (∃ later, t.host.writeQ = s.host.writeQ ++ item :: later) ∧ Waiter.item ∉ t.host.waiters ∧
      (s.host.waiters = [] →
        (t.host.writeQ, t.host.waiters) =
          if interrupt = true ∧ s.host.msgEnable = true ∧ v.masked = false then
            if s.host.writeQ.length + 2 ≤ 64 then (s.host.writeQ ++ [item, message], [])
            else (s.host.writeQ ++ [item], [.message message])
          else (s.host.writeQ ++ [item], [])) ∧
      (∀ j, t.host.vectors.get j =
        if j = x.ring ∧ interrupt = true ∧ s.host.msgEnable = true ∧ v.masked = true then { v with pending := true }
        else s.host.vectors.get j) ∧
      (∀ j, j ≠ x.ring → t.respRing j = s.respRing j) ∧
      t.respRing x.ring =
        { r with
          fill := (r.fill + 1) % r.size
          phase := if (r.fill + 1) % r.size = 0 then !r.phase else r.phase
          unreleased := r.unreleased + 1
          unsignalled := if interrupt = true then 0
            else if r.intOn = true ∧ counts = true then r.unsignalled + 1 else r.unsignalled
          oldest := if interrupt = true then none
            else if r.intOn = true ∧ counts = true ∧ r.unsignalled = 0 then some s.now else r.oldest } ∧
      match x.item with
      | .completion c => t.ctx c = none ∧ t.lines = s.lines
      | .lap n => (t.line n).lapPending = false ∧ t.sched = s.sched
      | .ringStopped k => (t.ring k).notice = none ∧ t.sched = s.sched ∧ t.lines = s.lines
      | .storeFault => t.store.faultPending = false ∧ t.sched = s.sched ∧ t.lines = s.lines
      | .respFaulted j => t.resp.faultSlots.get j = none ∧ t.sched = s.sched ∧ t.lines = s.lines) ∧
  (∀ s : State, (∃ y ∈ s.resp.posts, (s.respRing y.ring).state = .active ∧
      (s.respRing y.ring).unreleased < (s.respRing y.ring).size) → Waiter.item ∉ s.host.waiters →
    64 ≤ s.host.writeQ.length ∨ s.host.waiters ≠ [] →
    ∃ t, exec .itemWrite s = .next t ∧ OnlyIn [.hostPort] s t ∧ t.host.waiters = s.host.waiters ++ [.item] ∧
      t.host.writeQ = s.host.writeQ ∧ t.link = s.link) ∧
  ∀ (s : State) (r : RespId) (old : Nat), (s.respRing r).oldest = some old → (s.respRing r).state = .active →
    (s.respRing r).intOn = true → 0 < (s.respRing r).modTime → 0 < (s.respRing r).unsignalled →
    old + (s.respRing r).modTime ≤ s.now →
    ∃ t, exec (.moderationTimeExpiry r) s = .next t ∧ OnlyIn [.hostPort, .responseUnit] s t ∧
      (∀ j, t.respRing j = if j = r then { s.respRing r with unsignalled := 0, oldest := none } else s.respRing j) ∧
      t.resp.posts = s.resp.posts ∧
      if s.host.msgEnable = true then
        if (s.host.vectors.get r).masked = true then
          (t.host.vectors.get r).pending = true ∧ t.host.writeQ = s.host.writeQ
        else
          t.host.vectors = s.host.vectors ∧
            (s.host.waiters = [] → s.host.writeQ.length < 64 →
              t.host.writeQ = s.host.writeQ ++
                [⟨.message r, (s.host.vectors.get r).addr, leBytes 4 (s.host.vectors.get r).data.toNat⟩])
      else t.host.writeQ = s.host.writeQ ∧ t.host.vectors = s.host.vectors

/-- The layouts of items and reports (R70 to R72): each field of a completion, a notice, a line report and a store
report stands at its offset, least significant byte first, whatever the values within their ranges. And which values
each item carries, read from the state at the moment of writing: a completion its operation's result and its ring's
take index, a LAP notice W and the lap count, a RING_STOPPED notice the latest stop's reason and take index, a
STORE_FAULT notice the store state, a RESPONSE_FAULTED notice the latest fault's cause, release value and unreleased
count (R52, R71, R152). -/
def Obligations.ItemAndReportLayout : Prop :=
  (∀ (phase : Bool) (tag : BitVec 16) (ring take : Nat) (r : Settled) (bs : List Byte), ring < 16 → take < 4096 →
    r.pos < 2 ^ 48 → r.aux < 2 ^ 32 → bs = completionBytes phase tag ring take r →
    bs.length = 16 ∧ field bs 0 2 = tag.toNat ∧ field bs 2 1 = statusCode r.status ∧
      field bs 3 1 = (if phase = true then 128 else 0) + ring ∧ field bs 4 2 = take ∧ field bs 6 6 = r.pos ∧
      field bs 12 4 = r.aux) ∧
  (∀ (phase : Bool) (kind subject reason a b : Nat) (bs : List Byte), kind < 256 → subject < 256 → reason < 256 →
    a < 2 ^ 48 → b < 2 ^ 48 → bs = noticeBytes phase kind subject reason a b →
    bs.length = 16 ∧ field bs 0 1 = kind ∧ field bs 1 1 = subject ∧ field bs 2 1 = reason ∧
      field bs 3 1 = (if phase = true then 128 else 0) + 64 ∧ field bs 4 6 = a ∧ field bs 10 6 = b) ∧
  (∀ (s : State) (phase : Bool),
    (∀ c o r, s.ctx c = some o → o.result = some r →
      itemBytes s phase (.completion c) = completionBytes phase o.tag o.ring.val (s.ring o.ring).take r) ∧
    (∀ n, itemBytes s phase (.lap n) = noticeBytes phase 1 n.val 0 (s.line n).w ((s.line n).w / (s.line n).cap)) ∧
    (∀ k why take, (s.ring k).notice = some (why, take) → itemBytes s phase (.ringStopped k) =
      noticeBytes phase 2 k.val
        (match why with
        | .badPost => 1
        | .fetchFault => 2
        | .badSlots => 3
        | .responseFault => 4) take 0) ∧
    (s.store.state = .fault → itemBytes s phase .storeFault = noticeBytes phase 3 0 2 0 0) ∧
    ∀ k x, s.resp.faultSlots.get k = some x →
      itemBytes s phase (.respFaulted k) = noticeBytes phase 4 k.val x.cause x.value x.count) ∧
  (∀ (n : LineId) (l : Line) (bs : List Byte), l.channels ≤ 16 → l.extents.length ≤ 8 → l.cap < 2 ^ 32 →
    l.park.length < 2 ^ 16 → l.writers.length < 2 ^ 16 → l.w < 2 ^ 48 → l.f ≤ l.w → bs = lineReport n l →
    bs.length = 128 ∧ field bs 0 1 = lineCode l.state ∧ field bs 1 1 = l.channels ∧
      field bs 2 1 = (if l.policy = .guarded then 1 else 0) ∧ field bs 3 1 = (if l.lap.on = true then 1 else 0) ∧
      field bs 4 1 = l.lap.target.val ∧ field bs 5 1 = (if l.lapPending = true then 1 else 0) ∧
      field bs 6 1 = l.extents.length ∧ field bs 7 1 = n.val ∧ field bs 8 4 = l.cap ∧ field bs 12 2 = l.park.length ∧
      field bs 14 2 = l.writers.length ∧ field bs 16 8 = l.w ∧ field bs 24 8 = l.f ∧
      field bs 32 8 = max l.f (l.w - l.cap) ∧ field bs 40 8 = l.w / l.cap ∧ field bs 48 16 = 0 ∧
      (∀ i e, l.extents[i]? = some e → e.start < 2 ^ 32 → e.count < 2 ^ 32 →
        field bs (64 + 8 * i) 4 = e.start ∧ field bs (64 + 8 * i + 4) 4 = e.count) ∧
      ∀ i, l.extents.length ≤ i → i < 8 → field bs (64 + 8 * i) 8 = 0) ∧
  ∀ (c : StoreController) (bs : List Byte), blocksOf c.freeExts < 2 ^ 32 → c.freeExts.length < 2 ^ 32 →
    c.corrected < 2 ^ 32 → c.forced < 2 ^ 32 → bs = storeReport c →
    bs.length = 64 ∧ field bs 0 1 = storeCode c.state ∧ field bs 1 3 = 0 ∧ field bs 4 4 = blocksOf c.freeExts ∧
      field bs 8 4 = c.freeExts.length ∧ (∀ e ∈ c.freeExts, e.count ≤ field bs 12 4) ∧
      (c.freeExts = [] → field bs 12 4 = 0) ∧ (c.freeExts ≠ [] → ∃ e ∈ c.freeExts, e.count = field bs 12 4) ∧
      field bs 16 4 = c.corrected ∧ field bs 20 4 = c.forced ∧ field bs 24 40 = 0

/-! ### Lines and the store as a whole -/

/-- O, O′, the overtake bound and the guard check of a line (R4, R104, R12): the greatest of F and what the wrap has
left, with no writer, the active writer or the moving one counted; O′ is never below O, and equal to it with no active
writer or when W + M ≤ C; the overtake bound lies between them; a commit turns O′ into O, an abandoned write leaves O′
as O; and no position from O′ up lies in the active writer's overwrite range. The guard check passes exactly when no
position of a pin, from its p up to its e - 1, lies in that range, from W - C up to W + M - C - 1, clipped at 0. -/
def Obligations.LineBounds : Prop :=
  (∀ l : Line, oldest l = max (max l.f 0) (if l.cap > l.w then 0 else l.w - l.cap) ∧
    oldest l ≤ oldestCounting l ∧
    (l.writers = [] → oldestCounting l = oldest l) ∧
    ∀ x xs, l.writers = x :: xs →
      oldestCounting l = max (max l.f 0) (if l.cap > l.w + x.frames then 0 else l.w + x.frames - l.cap) ∧
        (l.w + x.frames ≤ l.cap → oldestCounting l = oldest l) ∧
        oldest { l with w := l.w + x.frames, writers := xs } = oldestCounting l ∧
        oldest { l with f := abandonedFloor l x.frames, writers := xs } = oldestCounting l ∧
        ∀ q, oldestCounting l ≤ q → ¬(q + l.cap < l.w + x.frames)) ∧
  (∀ (s : State) (n : LineId) (K : Nat),
    K = (match (s.line n).writers with
      | [] => 0
      | x :: _ => if s.inPhase x.ctx .moving = true then x.frames else 0) →
    overtakeBound (s.line n) (movingFrames n s) =
        max (max (s.line n).f 0) (if (s.line n).cap > (s.line n).w + K then 0 else (s.line n).w + K - (s.line n).cap) ∧
      oldest (s.line n) ≤ overtakeBound (s.line n) (movingFrames n s) ∧
      overtakeBound (s.line n) (movingFrames n s) ≤ oldestCounting (s.line n)) ∧
  ∀ (l : Line) (M : Nat), M = activeFrames l →
    (guardPasses l = true ↔
      ∀ x ∈ l.pins, ∀ q, x.lo ≤ q → q < x.hi → ¬(l.w - l.cap ≤ q ∧ q + l.cap < l.w + M)) ∧
    (l.w + M ≤ l.cap → guardPasses l = true)

/-- The mapping of positions to the store (R30): the logical byte is that of the frame index q mod C, byte j of frame k of
a run from position q is byte j of the frame at q + k (R31), the extents lie end to end, positions a capacity apart map to the same addresses, distinct retained positions to distinct ones when the
extents share no block, and a sample lies in one block. A run is carried on from each of its bytes by a burst of
consecutive store bytes (R31): it maps byte for byte to the run, lies in one block and covers at most 16 words, and it
ends with the run, at a block boundary, at 16 words, or where the run wraps to frame index 0 (16 words counted from the
word of its first byte, and the wrap: the model's reading, log 19). -/
def Obligations.AddressMapping : Prop :=
  ∀ l : Line, 0 < l.cap → 0 < l.channels → l.cap * (4 * l.channels) ≤ 4096 * blocksOf l.extents →
    (∀ q j, j < 4 * l.channels → logicalByte l q j = (q % l.cap) * (4 * l.channels) + j) ∧
    (∀ q k j, j < 4 * l.channels → logicalByte l q (4 * l.channels * k + j) = logicalByte l (q + k) j) ∧
    (∀ (i L : Nat) (e : Extent), l.extents[i]? = some e → 4096 * blocksOf (l.extents.take i) ≤ L →
      L < 4096 * blocksOf (l.extents.take (i + 1)) →
      storeAddr l.extents L = 4096 * e.start + (L - 4096 * blocksOf (l.extents.take i))) ∧
    (∀ q j, logicalByte l (q + l.cap) j = logicalByte l q j) ∧
    (∀ q c b, c < l.channels → b < 4 →
      storeAddr l.extents (logicalByte l q (4 * c + b)) = storeAddr l.extents (logicalByte l q (4 * c)) + b ∧
        storeAddr l.extents (logicalByte l q (4 * c + b)) / 4096 =
          storeAddr l.extents (logicalByte l q (4 * c)) / 4096) ∧
    (l.extents.Pairwise (fun d e => d.start + d.count ≤ e.start ∨ e.start + e.count ≤ d.start) →
      ∀ q q' i j, q % l.cap ≠ q' % l.cap → i < 4 * l.channels → j < 4 * l.channels →
        storeAddr l.extents (logicalByte l q i) ≠ storeAddr l.extents (logicalByte l q' j)) ∧
    ∀ start total j addr len, j < total → burstAt l start total j = (addr, len) →
      0 < len ∧ j + len ≤ total ∧ len ≤ 512 ∧ (wordsOf addr len).length ≤ 16 ∧ addr / 4096 = (addr + len - 1) / 4096 ∧
        (∀ i, i < len → storeAddr l.extents (logicalByte l start (j + i)) = addr + i) ∧
        (j + len = total ∨ (addr + len) % 4096 = 0 ∨ addr % 32 + len = 512 ∨
          logicalByte l start (j + len) = 0)

/-- Allocation and return (R25 to R28): a line needs C times its frame size over 4,096 blocks, rounded up; the lowest
free extent large enough gives its first blocks, else the largest free extents are gathered, at most 8, and the request
fails exactly when no 8 free extents hold enough; the table keeps its law, no block is made or lost, and the return of
what was taken restores the table. -/
def Obligations.Allocation : Prop :=
  (∀ C channels : Nat, C * (4 * channels) ≤ 4096 * blocksNeeded C channels ∧
    ∀ B, C * (4 * channels) ≤ 4096 * B → blocksNeeded C channels ≤ B) ∧
  ∀ (need : Nat) (es : List Extent), 0 < need → FreeTableOk es →
    (allocate need es = none ↔ ∀ l, l.Sublist es → l.length ≤ 8 → blocksOf l < need) ∧
    (∀ a e b, es = a ++ e :: b → need ≤ e.count → (∀ d ∈ a, d.count < need) →
      allocate need es =
        some ([⟨e.start, need⟩], a ++ (if e.count = need then b else ⟨e.start + need, e.count - need⟩ :: b))) ∧
    ∀ taken rest, allocate need es = some (taken, rest) →
      blocksOf taken = need ∧ blocksOf taken + blocksOf rest = blocksOf es ∧ 1 ≤ taken.length ∧ taken.length ≤ 8 ∧
        FreeTableOk rest ∧ returnExtents taken rest = es ∧
        (∀ x ∈ taken.dropLast, x ∈ es) ∧
        ((∀ e ∈ es, e.count < need) →
          taken.dropLast.Pairwise (fun d e => e.count < d.count ∨ (d.count = e.count ∧ d.start < e.start)) ∧
            ∀ x ∈ taken.dropLast, ∀ e ∈ rest, e.count ≤ x.count)

/-- The Mix Unit's arithmetic (R121): the exact sum of sample times gain over all taps, over 16,384, rounded to the
nearest whole number with halves away from zero, limited to a sample's range, each limited sample counted. A sample
stands in the store and in a host buffer as four bytes, least significant byte first (R102, R122). -/
def Obligations.MixArithmetic : Prop :=
  (∀ x : Int, 2 * (16384 * roundGain x - x) ≤ 16384 ∧ 2 * (x - 16384 * roundGain x) ≤ 16384 ∧
    (2 * (x - 16384 * roundGain x) = 16384 → x < 0) ∧ (2 * (16384 * roundGain x - x) = 16384 → 0 < x)) ∧
  (∀ x : Int, clampSample x =
    if 2147483647 < x then 2147483647 else if x < -2147483648 then -2147483648 else x) ∧
  (∀ (taps : List (Int × List Int)) (n : Nat), taps ≠ [] → (∀ t ∈ taps, t.2.length = n) →
    (mixSums taps).length = n ∧ (mixOutput taps).1.length = n ∧
    (∀ i, i < n → (mixSums taps).getD i 0 = (taps.map fun t => t.2.getD i 0 * t.1).sum ∧
      (mixOutput taps).1.getD i 0 = clampSample (roundGain ((taps.map fun t => t.2.getD i 0 * t.1).sum))) ∧
    (mixOutput taps).2 = (List.range n).countP (fun i =>
      decide (clampSample (roundGain ((taps.map fun t => t.2.getD i 0 * t.1).sum)) ≠
        roundGain ((taps.map fun t => t.2.getD i 0 * t.1).sum)))) ∧
  (∀ xs : List Int, (∀ x ∈ xs, -2147483648 ≤ x ∧ x ≤ 2147483647) → mixOutput [(16384, xs)] = (xs, 0)) ∧
  ∀ (x : Int) (rest : List Byte), -2147483648 ≤ x → x ≤ 2147483647 →
    (sampleBytes x).length = 4 ∧ samples (sampleBytes x ++ rest) = x :: samples rest ∧
      (field (sampleBytes x) 0 4 : Int) = if 0 ≤ x then x else x + 4294967296

/-- The history of a line only grows (R2, R3, R6, R30): over every step a FREE line stays FREE or becomes OPEN, a line
is CLOSING or FREE after a close, and while it is not FREE its W and F never fall and its channels, capacity and extents
stay, so every position keeps its store address. -/
def Obligations.LineHistory : Prop :=
  ∀ (s t : State) (n : LineId), LineOk (s.line n) → step s = .next t →
    ((s.line n).state = .free → (t.line n).state ≠ .closing) ∧
    ((s.line n).state = .closing → (t.line n).state ≠ .opened) ∧
    ((s.line n).state ≠ .free → (t.line n).state ≠ .free →
      (s.line n).w ≤ (t.line n).w ∧ (s.line n).f ≤ (t.line n).f ∧ (t.line n).channels = (s.line n).channels ∧
        (t.line n).cap = (s.line n).cap ∧ (t.line n).extents = (s.line n).extents)
end

