-- ==== Sys2Proof/Laws/Table.lean ====
section
/-! SUPPORT. Reading a table after an update. -/

namespace Sys2Proof

variable {α β : Type} {n : Nat}

@[simp] theorem Table.get_set_self (t : Table α n) (i : Fin n) (x : α) : (t.set i x).get i = x := by
  simp [Table.get, Table.set]

@[simp] theorem Table.get_set_ne (t : Table α n) (i j : Fin n) (x : α) (h : j ≠ i) : (t.set i x).get j = t.get j := by
  have h' : i.val ≠ j.val := fun e => h (Fin.ext e.symm)
  simp [Table.get, Table.set, List.getElem_set_ne h']

theorem Table.get_set (t : Table α n) (i j : Fin n) (x : α) : (t.set i x).get j = if j = i then x else t.get j := by
  by_cases h : j = i
  · subst h; simp
  · simp [h]

@[simp] theorem Table.get_fill (i : Fin n) (x : α) : (Table.fill n x).get i = x := by
  simp [Table.get, Table.fill]

@[simp] theorem Table.get_map (f : α → β) (t : Table α n) (i : Fin n) : (t.map f).get i = f (t.get i) := by
  simp [Table.get, Table.map]

theorem Table.ext_get {t u : Table α n} (h : ∀ i, t.get i = u.get i) : t = u := by
  obtain ⟨r, hr⟩ := t
  obtain ⟨q, hq⟩ := u
  have : r = q := by
    apply List.ext_getElem (by rw [hr, hq])
    intro i h1 h2
    exact h ⟨i, by rw [← hr]; exact h1⟩
  subst this
  rfl

theorem Table.all_iff (t : Table α n) (p : α → Bool) : t.all p = true ↔ ∀ i, p (t.get i) = true := by
  simp only [Table.all, List.all_eq_true]
  constructor
  · intro h i
    exact h _ (List.getElem_mem _)
  · intro h x hx
    obtain ⟨i, hi, rfl⟩ := List.getElem_of_mem hx
    exact h ⟨i, by rw [← t.len]; exact hi⟩

@[simp] theorem Table.set_get_self (t : Table α n) (i : Fin n) : t.set i (t.get i) = t := by
  apply Table.ext_get
  intro j
  rw [Table.get_set]
  split <;> simp_all

end Sys2Proof
end

