-- ==== Sys2Proof/Laws/State.lean ====
section
/-! SUPPORT. Reading the state after an update: one lemma for each block and each table, for each update. -/

namespace Sys2Proof.Machine

variable (s : State)

@[simp] theorem State.setLine_pending (n : LineId) (x : Line) : (s.setLine n x).pending = s.pending := rfl
@[simp] theorem State.setLine_now (n : LineId) (x : Line) : (s.setLine n x).now = s.now := rfl
@[simp] theorem State.setLine_link (n : LineId) (x : Line) : (s.setLine n x).link = s.link := rfl
@[simp] theorem State.setLine_host (n : LineId) (x : Line) : (s.setLine n x).host = s.host := rfl
@[simp] theorem State.setLine_fetcher (n : LineId) (x : Line) : (s.setLine n x).fetcher = s.fetcher := rfl
@[simp] theorem State.setLine_sched (n : LineId) (x : Line) : (s.setLine n x).sched = s.sched := rfl
@[simp] theorem State.setLine_parkTimer (n : LineId) (x : Line) : (s.setLine n x).parkTimer = s.parkTimer := rfl
@[simp] theorem State.setLine_movers (n : LineId) (x : Line) : (s.setLine n x).movers = s.movers := rfl
@[simp] theorem State.setLine_store (n : LineId) (x : Line) : (s.setLine n x).store = s.store := rfl
@[simp] theorem State.setLine_resp (n : LineId) (x : Line) : (s.setLine n x).resp = s.resp := rfl
@[simp] theorem State.setLine_ctx (n : LineId) (x : Line) (j : CtxId) : (s.setLine n x).ctx j = s.ctx j := rfl
@[simp] theorem State.setLine_ring (n : LineId) (x : Line) (j : RingId) : (s.setLine n x).ring j = s.ring j := rfl
@[simp] theorem State.setLine_respRing (n : LineId) (x : Line) (j : RespId) : (s.setLine n x).respRing j = s.respRing j := rfl
@[simp] theorem State.setLine_mover (n : LineId) (x : Line) (j : MoverId) : (s.setLine n x).mover j = s.mover j := rfl

@[simp] theorem State.setCtx_pending (c : CtxId) (x : Option Operation) : (s.setCtx c x).pending = s.pending := rfl
@[simp] theorem State.setCtx_now (c : CtxId) (x : Option Operation) : (s.setCtx c x).now = s.now := rfl
@[simp] theorem State.setCtx_link (c : CtxId) (x : Option Operation) : (s.setCtx c x).link = s.link := rfl
@[simp] theorem State.setCtx_host (c : CtxId) (x : Option Operation) : (s.setCtx c x).host = s.host := rfl
@[simp] theorem State.setCtx_fetcher (c : CtxId) (x : Option Operation) : (s.setCtx c x).fetcher = s.fetcher := rfl
@[simp] theorem State.setCtx_lines (c : CtxId) (x : Option Operation) : (s.setCtx c x).lines = s.lines := rfl
@[simp] theorem State.setCtx_parkTimer (c : CtxId) (x : Option Operation) : (s.setCtx c x).parkTimer = s.parkTimer := rfl
@[simp] theorem State.setCtx_movers (c : CtxId) (x : Option Operation) : (s.setCtx c x).movers = s.movers := rfl
@[simp] theorem State.setCtx_store (c : CtxId) (x : Option Operation) : (s.setCtx c x).store = s.store := rfl
@[simp] theorem State.setCtx_resp (c : CtxId) (x : Option Operation) : (s.setCtx c x).resp = s.resp := rfl
@[simp] theorem State.setCtx_line (c : CtxId) (x : Option Operation) (j : LineId) : (s.setCtx c x).line j = s.line j := rfl
@[simp] theorem State.setCtx_ring (c : CtxId) (x : Option Operation) (j : RingId) : (s.setCtx c x).ring j = s.ring j := rfl
@[simp] theorem State.setCtx_respRing (c : CtxId) (x : Option Operation) (j : RespId) : (s.setCtx c x).respRing j = s.respRing j := rfl
@[simp] theorem State.setCtx_mover (c : CtxId) (x : Option Operation) (j : MoverId) : (s.setCtx c x).mover j = s.mover j := rfl

@[simp] theorem State.setRing_pending (k : RingId) (x : CmdRing) : (s.setRing k x).pending = s.pending := rfl
@[simp] theorem State.setRing_now (k : RingId) (x : CmdRing) : (s.setRing k x).now = s.now := rfl
@[simp] theorem State.setRing_link (k : RingId) (x : CmdRing) : (s.setRing k x).link = s.link := rfl
@[simp] theorem State.setRing_host (k : RingId) (x : CmdRing) : (s.setRing k x).host = s.host := rfl
@[simp] theorem State.setRing_sched (k : RingId) (x : CmdRing) : (s.setRing k x).sched = s.sched := rfl
@[simp] theorem State.setRing_lines (k : RingId) (x : CmdRing) : (s.setRing k x).lines = s.lines := rfl
@[simp] theorem State.setRing_parkTimer (k : RingId) (x : CmdRing) : (s.setRing k x).parkTimer = s.parkTimer := rfl
@[simp] theorem State.setRing_movers (k : RingId) (x : CmdRing) : (s.setRing k x).movers = s.movers := rfl
@[simp] theorem State.setRing_store (k : RingId) (x : CmdRing) : (s.setRing k x).store = s.store := rfl
@[simp] theorem State.setRing_resp (k : RingId) (x : CmdRing) : (s.setRing k x).resp = s.resp := rfl
@[simp] theorem State.setRing_line (k : RingId) (x : CmdRing) (j : LineId) : (s.setRing k x).line j = s.line j := rfl
@[simp] theorem State.setRing_ctx (k : RingId) (x : CmdRing) (j : CtxId) : (s.setRing k x).ctx j = s.ctx j := rfl
@[simp] theorem State.setRing_respRing (k : RingId) (x : CmdRing) (j : RespId) : (s.setRing k x).respRing j = s.respRing j := rfl
@[simp] theorem State.setRing_mover (k : RingId) (x : CmdRing) (j : MoverId) : (s.setRing k x).mover j = s.mover j := rfl

@[simp] theorem State.setRespRing_pending (r : RespId) (x : RespRing) : (s.setRespRing r x).pending = s.pending := rfl
@[simp] theorem State.setRespRing_now (r : RespId) (x : RespRing) : (s.setRespRing r x).now = s.now := rfl
@[simp] theorem State.setRespRing_link (r : RespId) (x : RespRing) : (s.setRespRing r x).link = s.link := rfl
@[simp] theorem State.setRespRing_host (r : RespId) (x : RespRing) : (s.setRespRing r x).host = s.host := rfl
@[simp] theorem State.setRespRing_fetcher (r : RespId) (x : RespRing) : (s.setRespRing r x).fetcher = s.fetcher := rfl
@[simp] theorem State.setRespRing_sched (r : RespId) (x : RespRing) : (s.setRespRing r x).sched = s.sched := rfl
@[simp] theorem State.setRespRing_lines (r : RespId) (x : RespRing) : (s.setRespRing r x).lines = s.lines := rfl
@[simp] theorem State.setRespRing_parkTimer (r : RespId) (x : RespRing) : (s.setRespRing r x).parkTimer = s.parkTimer := rfl
@[simp] theorem State.setRespRing_movers (r : RespId) (x : RespRing) : (s.setRespRing r x).movers = s.movers := rfl
@[simp] theorem State.setRespRing_store (r : RespId) (x : RespRing) : (s.setRespRing r x).store = s.store := rfl
@[simp] theorem State.setRespRing_line (r : RespId) (x : RespRing) (j : LineId) : (s.setRespRing r x).line j = s.line j := rfl
@[simp] theorem State.setRespRing_ctx (r : RespId) (x : RespRing) (j : CtxId) : (s.setRespRing r x).ctx j = s.ctx j := rfl
@[simp] theorem State.setRespRing_ring (r : RespId) (x : RespRing) (j : RingId) : (s.setRespRing r x).ring j = s.ring j := rfl
@[simp] theorem State.setRespRing_mover (r : RespId) (x : RespRing) (j : MoverId) : (s.setRespRing r x).mover j = s.mover j := rfl

@[simp] theorem State.setMover_pending (m : MoverId) (x : Option Mover) : (s.setMover m x).pending = s.pending := rfl
@[simp] theorem State.setMover_now (m : MoverId) (x : Option Mover) : (s.setMover m x).now = s.now := rfl
@[simp] theorem State.setMover_link (m : MoverId) (x : Option Mover) : (s.setMover m x).link = s.link := rfl
@[simp] theorem State.setMover_host (m : MoverId) (x : Option Mover) : (s.setMover m x).host = s.host := rfl
@[simp] theorem State.setMover_fetcher (m : MoverId) (x : Option Mover) : (s.setMover m x).fetcher = s.fetcher := rfl
@[simp] theorem State.setMover_sched (m : MoverId) (x : Option Mover) : (s.setMover m x).sched = s.sched := rfl
@[simp] theorem State.setMover_lines (m : MoverId) (x : Option Mover) : (s.setMover m x).lines = s.lines := rfl
@[simp] theorem State.setMover_parkTimer (m : MoverId) (x : Option Mover) : (s.setMover m x).parkTimer = s.parkTimer := rfl
@[simp] theorem State.setMover_store (m : MoverId) (x : Option Mover) : (s.setMover m x).store = s.store := rfl
@[simp] theorem State.setMover_resp (m : MoverId) (x : Option Mover) : (s.setMover m x).resp = s.resp := rfl
@[simp] theorem State.setMover_line (m : MoverId) (x : Option Mover) (j : LineId) : (s.setMover m x).line j = s.line j := rfl
@[simp] theorem State.setMover_ctx (m : MoverId) (x : Option Mover) (j : CtxId) : (s.setMover m x).ctx j = s.ctx j := rfl
@[simp] theorem State.setMover_ring (m : MoverId) (x : Option Mover) (j : RingId) : (s.setMover m x).ring j = s.ring j := rfl
@[simp] theorem State.setMover_respRing (m : MoverId) (x : Option Mover) (j : RespId) : (s.setMover m x).respRing j = s.respRing j := rfl

@[simp] theorem State.setHost_pending (x : HostPort) : (s.setHost x).pending = s.pending := rfl
@[simp] theorem State.setHost_now (x : HostPort) : (s.setHost x).now = s.now := rfl
@[simp] theorem State.setHost_link (x : HostPort) : (s.setHost x).link = s.link := rfl
@[simp] theorem State.setHost_fetcher (x : HostPort) : (s.setHost x).fetcher = s.fetcher := rfl
@[simp] theorem State.setHost_sched (x : HostPort) : (s.setHost x).sched = s.sched := rfl
@[simp] theorem State.setHost_lines (x : HostPort) : (s.setHost x).lines = s.lines := rfl
@[simp] theorem State.setHost_parkTimer (x : HostPort) : (s.setHost x).parkTimer = s.parkTimer := rfl
@[simp] theorem State.setHost_movers (x : HostPort) : (s.setHost x).movers = s.movers := rfl
@[simp] theorem State.setHost_store (x : HostPort) : (s.setHost x).store = s.store := rfl
@[simp] theorem State.setHost_resp (x : HostPort) : (s.setHost x).resp = s.resp := rfl
@[simp] theorem State.setHost_line (x : HostPort) (j : LineId) : (s.setHost x).line j = s.line j := rfl
@[simp] theorem State.setHost_ctx (x : HostPort) (j : CtxId) : (s.setHost x).ctx j = s.ctx j := rfl
@[simp] theorem State.setHost_ring (x : HostPort) (j : RingId) : (s.setHost x).ring j = s.ring j := rfl
@[simp] theorem State.setHost_respRing (x : HostPort) (j : RespId) : (s.setHost x).respRing j = s.respRing j := rfl
@[simp] theorem State.setHost_mover (x : HostPort) (j : MoverId) : (s.setHost x).mover j = s.mover j := rfl

@[simp] theorem State.setStore_pending (x : StoreController) : (s.setStore x).pending = s.pending := rfl
@[simp] theorem State.setStore_now (x : StoreController) : (s.setStore x).now = s.now := rfl
@[simp] theorem State.setStore_link (x : StoreController) : (s.setStore x).link = s.link := rfl
@[simp] theorem State.setStore_host (x : StoreController) : (s.setStore x).host = s.host := rfl
@[simp] theorem State.setStore_fetcher (x : StoreController) : (s.setStore x).fetcher = s.fetcher := rfl
@[simp] theorem State.setStore_sched (x : StoreController) : (s.setStore x).sched = s.sched := rfl
@[simp] theorem State.setStore_lines (x : StoreController) : (s.setStore x).lines = s.lines := rfl
@[simp] theorem State.setStore_parkTimer (x : StoreController) : (s.setStore x).parkTimer = s.parkTimer := rfl
@[simp] theorem State.setStore_movers (x : StoreController) : (s.setStore x).movers = s.movers := rfl
@[simp] theorem State.setStore_resp (x : StoreController) : (s.setStore x).resp = s.resp := rfl
@[simp] theorem State.setStore_line (x : StoreController) (j : LineId) : (s.setStore x).line j = s.line j := rfl
@[simp] theorem State.setStore_ctx (x : StoreController) (j : CtxId) : (s.setStore x).ctx j = s.ctx j := rfl
@[simp] theorem State.setStore_ring (x : StoreController) (j : RingId) : (s.setStore x).ring j = s.ring j := rfl
@[simp] theorem State.setStore_respRing (x : StoreController) (j : RespId) : (s.setStore x).respRing j = s.respRing j := rfl
@[simp] theorem State.setStore_mover (x : StoreController) (j : MoverId) : (s.setStore x).mover j = s.mover j := rfl

@[simp] theorem State.setPosts_pending (x : List Posted) : (s.setPosts x).pending = s.pending := rfl
@[simp] theorem State.setPosts_now (x : List Posted) : (s.setPosts x).now = s.now := rfl
@[simp] theorem State.setPosts_link (x : List Posted) : (s.setPosts x).link = s.link := rfl
@[simp] theorem State.setPosts_host (x : List Posted) : (s.setPosts x).host = s.host := rfl
@[simp] theorem State.setPosts_fetcher (x : List Posted) : (s.setPosts x).fetcher = s.fetcher := rfl
@[simp] theorem State.setPosts_sched (x : List Posted) : (s.setPosts x).sched = s.sched := rfl
@[simp] theorem State.setPosts_lines (x : List Posted) : (s.setPosts x).lines = s.lines := rfl
@[simp] theorem State.setPosts_parkTimer (x : List Posted) : (s.setPosts x).parkTimer = s.parkTimer := rfl
@[simp] theorem State.setPosts_movers (x : List Posted) : (s.setPosts x).movers = s.movers := rfl
@[simp] theorem State.setPosts_store (x : List Posted) : (s.setPosts x).store = s.store := rfl
@[simp] theorem State.setPosts_line (x : List Posted) (j : LineId) : (s.setPosts x).line j = s.line j := rfl
@[simp] theorem State.setPosts_ctx (x : List Posted) (j : CtxId) : (s.setPosts x).ctx j = s.ctx j := rfl
@[simp] theorem State.setPosts_ring (x : List Posted) (j : RingId) : (s.setPosts x).ring j = s.ring j := rfl
@[simp] theorem State.setPosts_mover (x : List Posted) (j : MoverId) : (s.setPosts x).mover j = s.mover j := rfl

@[simp] theorem State.setFaultSlot_pending (r : RespId) (x : Option FaultInfo) : (s.setFaultSlot r x).pending = s.pending := rfl
@[simp] theorem State.setFaultSlot_now (r : RespId) (x : Option FaultInfo) : (s.setFaultSlot r x).now = s.now := rfl
@[simp] theorem State.setFaultSlot_link (r : RespId) (x : Option FaultInfo) : (s.setFaultSlot r x).link = s.link := rfl
@[simp] theorem State.setFaultSlot_host (r : RespId) (x : Option FaultInfo) : (s.setFaultSlot r x).host = s.host := rfl
@[simp] theorem State.setFaultSlot_fetcher (r : RespId) (x : Option FaultInfo) : (s.setFaultSlot r x).fetcher = s.fetcher := rfl
@[simp] theorem State.setFaultSlot_sched (r : RespId) (x : Option FaultInfo) : (s.setFaultSlot r x).sched = s.sched := rfl
@[simp] theorem State.setFaultSlot_lines (r : RespId) (x : Option FaultInfo) : (s.setFaultSlot r x).lines = s.lines := rfl
@[simp] theorem State.setFaultSlot_parkTimer (r : RespId) (x : Option FaultInfo) : (s.setFaultSlot r x).parkTimer = s.parkTimer := rfl
@[simp] theorem State.setFaultSlot_movers (r : RespId) (x : Option FaultInfo) : (s.setFaultSlot r x).movers = s.movers := rfl
@[simp] theorem State.setFaultSlot_store (r : RespId) (x : Option FaultInfo) : (s.setFaultSlot r x).store = s.store := rfl
@[simp] theorem State.setFaultSlot_line (r : RespId) (x : Option FaultInfo) (j : LineId) : (s.setFaultSlot r x).line j = s.line j := rfl
@[simp] theorem State.setFaultSlot_ctx (r : RespId) (x : Option FaultInfo) (j : CtxId) : (s.setFaultSlot r x).ctx j = s.ctx j := rfl
@[simp] theorem State.setFaultSlot_ring (r : RespId) (x : Option FaultInfo) (j : RingId) : (s.setFaultSlot r x).ring j = s.ring j := rfl
@[simp] theorem State.setFaultSlot_mover (r : RespId) (x : Option FaultInfo) (j : MoverId) : (s.setFaultSlot r x).mover j = s.mover j := rfl

@[simp] theorem State.setReady_pending (x : List CtxId) : (s.setReady x).pending = s.pending := rfl
@[simp] theorem State.setReady_now (x : List CtxId) : (s.setReady x).now = s.now := rfl
@[simp] theorem State.setReady_link (x : List CtxId) : (s.setReady x).link = s.link := rfl
@[simp] theorem State.setReady_host (x : List CtxId) : (s.setReady x).host = s.host := rfl
@[simp] theorem State.setReady_fetcher (x : List CtxId) : (s.setReady x).fetcher = s.fetcher := rfl
@[simp] theorem State.setReady_lines (x : List CtxId) : (s.setReady x).lines = s.lines := rfl
@[simp] theorem State.setReady_parkTimer (x : List CtxId) : (s.setReady x).parkTimer = s.parkTimer := rfl
@[simp] theorem State.setReady_movers (x : List CtxId) : (s.setReady x).movers = s.movers := rfl
@[simp] theorem State.setReady_store (x : List CtxId) : (s.setReady x).store = s.store := rfl
@[simp] theorem State.setReady_resp (x : List CtxId) : (s.setReady x).resp = s.resp := rfl
@[simp] theorem State.setReady_line (x : List CtxId) (j : LineId) : (s.setReady x).line j = s.line j := rfl
@[simp] theorem State.setReady_ring (x : List CtxId) (j : RingId) : (s.setReady x).ring j = s.ring j := rfl
@[simp] theorem State.setReady_respRing (x : List CtxId) (j : RespId) : (s.setReady x).respRing j = s.respRing j := rfl
@[simp] theorem State.setReady_mover (x : List CtxId) (j : MoverId) : (s.setReady x).mover j = s.mover j := rfl

@[simp] theorem State.setParkTimer_pending (x : List (CtxId × Nat)) : (s.setParkTimer x).pending = s.pending := rfl
@[simp] theorem State.setParkTimer_now (x : List (CtxId × Nat)) : (s.setParkTimer x).now = s.now := rfl
@[simp] theorem State.setParkTimer_link (x : List (CtxId × Nat)) : (s.setParkTimer x).link = s.link := rfl
@[simp] theorem State.setParkTimer_host (x : List (CtxId × Nat)) : (s.setParkTimer x).host = s.host := rfl
@[simp] theorem State.setParkTimer_fetcher (x : List (CtxId × Nat)) : (s.setParkTimer x).fetcher = s.fetcher := rfl
@[simp] theorem State.setParkTimer_sched (x : List (CtxId × Nat)) : (s.setParkTimer x).sched = s.sched := rfl
@[simp] theorem State.setParkTimer_lines (x : List (CtxId × Nat)) : (s.setParkTimer x).lines = s.lines := rfl
@[simp] theorem State.setParkTimer_movers (x : List (CtxId × Nat)) : (s.setParkTimer x).movers = s.movers := rfl
@[simp] theorem State.setParkTimer_store (x : List (CtxId × Nat)) : (s.setParkTimer x).store = s.store := rfl
@[simp] theorem State.setParkTimer_resp (x : List (CtxId × Nat)) : (s.setParkTimer x).resp = s.resp := rfl
@[simp] theorem State.setParkTimer_line (x : List (CtxId × Nat)) (j : LineId) : (s.setParkTimer x).line j = s.line j := rfl
@[simp] theorem State.setParkTimer_ctx (x : List (CtxId × Nat)) (j : CtxId) : (s.setParkTimer x).ctx j = s.ctx j := rfl
@[simp] theorem State.setParkTimer_ring (x : List (CtxId × Nat)) (j : RingId) : (s.setParkTimer x).ring j = s.ring j := rfl
@[simp] theorem State.setParkTimer_respRing (x : List (CtxId × Nat)) (j : RespId) : (s.setParkTimer x).respRing j = s.respRing j := rfl
@[simp] theorem State.setParkTimer_mover (x : List (CtxId × Nat)) (j : MoverId) : (s.setParkTimer x).mover j = s.mover j := rfl

@[simp] theorem State.setFetch_pending (x : Option Fetch) : (s.setFetch x).pending = s.pending := rfl
@[simp] theorem State.setFetch_now (x : Option Fetch) : (s.setFetch x).now = s.now := rfl
@[simp] theorem State.setFetch_link (x : Option Fetch) : (s.setFetch x).link = s.link := rfl
@[simp] theorem State.setFetch_host (x : Option Fetch) : (s.setFetch x).host = s.host := rfl
@[simp] theorem State.setFetch_sched (x : Option Fetch) : (s.setFetch x).sched = s.sched := rfl
@[simp] theorem State.setFetch_lines (x : Option Fetch) : (s.setFetch x).lines = s.lines := rfl
@[simp] theorem State.setFetch_parkTimer (x : Option Fetch) : (s.setFetch x).parkTimer = s.parkTimer := rfl
@[simp] theorem State.setFetch_movers (x : Option Fetch) : (s.setFetch x).movers = s.movers := rfl
@[simp] theorem State.setFetch_store (x : Option Fetch) : (s.setFetch x).store = s.store := rfl
@[simp] theorem State.setFetch_resp (x : Option Fetch) : (s.setFetch x).resp = s.resp := rfl
@[simp] theorem State.setFetch_line (x : Option Fetch) (j : LineId) : (s.setFetch x).line j = s.line j := rfl
@[simp] theorem State.setFetch_ctx (x : Option Fetch) (j : CtxId) : (s.setFetch x).ctx j = s.ctx j := rfl
@[simp] theorem State.setFetch_respRing (x : Option Fetch) (j : RespId) : (s.setFetch x).respRing j = s.respRing j := rfl
@[simp] theorem State.setFetch_mover (x : Option Fetch) (j : MoverId) : (s.setFetch x).mover j = s.mover j := rfl

@[simp] theorem State.setLine_same (n : LineId) (x : Line) : (s.setLine n x).line n = x := by
  simp [State.setLine, State.line]

@[simp] theorem State.setLine_other (n j : LineId) (x : Line) (h : j ≠ n) : (s.setLine n x).line j = s.line j := by
  simp [State.setLine, State.line, h]

@[simp] theorem State.setCtx_same (c : CtxId) (x : Option Operation) : (s.setCtx c x).ctx c = x := by
  simp [State.setCtx, State.ctx]

@[simp] theorem State.setCtx_other (c j : CtxId) (x : Option Operation) (h : j ≠ c) :
    (s.setCtx c x).ctx j = s.ctx j := by
  simp [State.setCtx, State.ctx, h]

@[simp] theorem State.setRing_same (k : RingId) (x : CmdRing) : (s.setRing k x).ring k = x := by
  simp [State.setRing, State.ring]

@[simp] theorem State.setRing_other (k j : RingId) (x : CmdRing) (h : j ≠ k) : (s.setRing k x).ring j = s.ring j := by
  simp [State.setRing, State.ring, h]

@[simp] theorem State.setRespRing_same (r : RespId) (x : RespRing) : (s.setRespRing r x).respRing r = x := by
  simp [State.setRespRing, State.respRing]

@[simp] theorem State.setRespRing_other (r j : RespId) (x : RespRing) (h : j ≠ r) :
    (s.setRespRing r x).respRing j = s.respRing j := by
  simp [State.setRespRing, State.respRing, h]

@[simp] theorem State.setMover_same (m : MoverId) (x : Option Mover) : (s.setMover m x).mover m = x := by
  simp [State.setMover, State.mover]

@[simp] theorem State.setMover_other (m j : MoverId) (x : Option Mover) (h : j ≠ m) :
    (s.setMover m x).mover j = s.mover j := by
  simp [State.setMover, State.mover, h]

@[simp] theorem State.setHost_host (x : HostPort) : (s.setHost x).host = x := rfl
@[simp] theorem State.setStore_store (x : StoreController) : (s.setStore x).store = x := rfl
@[simp] theorem State.setPosts_posts (x : List Posted) : (s.setPosts x).resp.posts = x := rfl
@[simp] theorem State.setPosts_rings (x : List Posted) : (s.setPosts x).resp.rings = s.resp.rings := rfl
@[simp] theorem State.setPosts_respRing (x : List Posted) (r : RespId) : (s.setPosts x).respRing r = s.respRing r := rfl
@[simp] theorem State.setPosts_faultSlots (x : List Posted) : (s.setPosts x).resp.faultSlots = s.resp.faultSlots := rfl
@[simp] theorem State.setRespRing_posts (r : RespId) (x : RespRing) : (s.setRespRing r x).resp.posts = s.resp.posts := rfl
@[simp] theorem State.setRespRing_faultSlots (r : RespId) (x : RespRing) :
    (s.setRespRing r x).resp.faultSlots = s.resp.faultSlots := rfl
@[simp] theorem State.setFaultSlot_posts (r : RespId) (x : Option FaultInfo) :
    (s.setFaultSlot r x).resp.posts = s.resp.posts := rfl
@[simp] theorem State.setFaultSlot_rings (r : RespId) (x : Option FaultInfo) :
    (s.setFaultSlot r x).resp.rings = s.resp.rings := rfl
@[simp] theorem State.setFaultSlot_respRing (r j : RespId) (x : Option FaultInfo) :
    (s.setFaultSlot r x).respRing j = s.respRing j := rfl
@[simp] theorem State.setReady_ready (x : List CtxId) : (s.setReady x).sched.ready = x := rfl
@[simp] theorem State.setReady_ctxs (x : List CtxId) : (s.setReady x).sched.ctxs = s.sched.ctxs := rfl
@[simp] theorem State.setReady_ctx (x : List CtxId) (c : CtxId) : (s.setReady x).ctx c = s.ctx c := rfl
@[simp] theorem State.setCtx_ready (c : CtxId) (x : Option Operation) : (s.setCtx c x).sched.ready = s.sched.ready := rfl
@[simp] theorem State.setParkTimer_parkTimer (x : List (CtxId × Nat)) : (s.setParkTimer x).parkTimer = x := rfl
@[simp] theorem State.setFetch_fetch (x : Option Fetch) : (s.setFetch x).fetcher.fetch = x := rfl
@[simp] theorem State.setFetch_rings (x : Option Fetch) : (s.setFetch x).fetcher.rings = s.fetcher.rings := rfl
@[simp] theorem State.setFetch_ring (x : Option Fetch) (k : RingId) : (s.setFetch x).ring k = s.ring k := rfl
@[simp] theorem State.setFetch_lastGrant (x : Option Fetch) : (s.setFetch x).fetcher.lastGrant = s.fetcher.lastGrant := rfl
@[simp] theorem State.setRing_fetch (k : RingId) (x : CmdRing) : (s.setRing k x).fetcher.fetch = s.fetcher.fetch := rfl
@[simp] theorem State.setRing_lastGrant (k : RingId) (x : CmdRing) :
    (s.setRing k x).fetcher.lastGrant = s.fetcher.lastGrant := rfl

end Sys2Proof.Machine
end

