-- ==== Sys2Proof/Laws/Frames.lean ====
section
/-! SUPPORT. What each shared operation leaves alone: one lemma for each operation and each part of the state it does
not change. -/

namespace Sys2Proof.Machine

/-- A fold of updates leaves alone what each update leaves alone. -/
theorem foldl_keeps {α β : Type} (g : State → β) (f : State → α → State) (h : ∀ t x, g (f t x) = g t) (l : List α)
    (s : State) : g (l.foldl f s) = g s := by
  induction l generalizing s with
  | nil => rfl
  | cons x xs ih => rw [List.foldl_cons, ih, h]

variable (s : State)

@[simp] theorem State.modCtx_frame (c : CtxId) (g : Operation → Operation) :
    (s.modCtx c g).pending = s.pending ∧
    (s.modCtx c g).now = s.now ∧
    (s.modCtx c g).link = s.link ∧
    (s.modCtx c g).host = s.host ∧
    (s.modCtx c g).fetcher = s.fetcher ∧
    (s.modCtx c g).lines = s.lines ∧
    (s.modCtx c g).parkTimer = s.parkTimer ∧
    (s.modCtx c g).movers = s.movers ∧
    (s.modCtx c g).store = s.store ∧
    (s.modCtx c g).resp = s.resp ∧
    (s.modCtx c g).sched.ready = s.sched.ready := by
  unfold State.modCtx
  split <;> simp

@[simp] theorem State.setPhase_frame (c : CtxId) (p : Phase) :
    (s.setPhase c p).pending = s.pending ∧
    (s.setPhase c p).now = s.now ∧
    (s.setPhase c p).link = s.link ∧
    (s.setPhase c p).host = s.host ∧
    (s.setPhase c p).fetcher = s.fetcher ∧
    (s.setPhase c p).lines = s.lines ∧
    (s.setPhase c p).parkTimer = s.parkTimer ∧
    (s.setPhase c p).movers = s.movers ∧
    (s.setPhase c p).store = s.store ∧
    (s.setPhase c p).resp = s.resp ∧
    (s.setPhase c p).sched.ready = s.sched.ready := by
  simp [State.setPhase]

@[simp] theorem post_frame (r : RespId) (i : PostItem) :
    (post r i s).pending = s.pending ∧
    (post r i s).now = s.now ∧
    (post r i s).link = s.link ∧
    (post r i s).host = s.host ∧
    (post r i s).fetcher = s.fetcher ∧
    (post r i s).sched = s.sched ∧
    (post r i s).lines = s.lines ∧
    (post r i s).parkTimer = s.parkTimer ∧
    (post r i s).movers = s.movers ∧
    (post r i s).store = s.store ∧
    (post r i s).resp.rings = s.resp.rings ∧
    (post r i s).resp.faultSlots = s.resp.faultSlots := by
  unfold post
  split <;> simp

@[simp] theorem freeCtx_frame (c : CtxId) :
    (freeCtx c s).pending = s.pending ∧
    (freeCtx c s).now = s.now ∧
    (freeCtx c s).link = s.link ∧
    (freeCtx c s).host = s.host ∧
    (freeCtx c s).lines = s.lines ∧
    (freeCtx c s).parkTimer = s.parkTimer ∧
    (freeCtx c s).movers = s.movers ∧
    (freeCtx c s).store = s.store ∧
    (freeCtx c s).resp = s.resp ∧
    (freeCtx c s).sched.ready = s.sched.ready ∧
    (freeCtx c s).fetcher.fetch = s.fetcher.fetch ∧
    (freeCtx c s).fetcher.lastGrant = s.fetcher.lastGrant := by
  unfold freeCtx
  split <;> simp

@[simp] theorem finish_frame (c : CtxId) (st : Status) (p a : Nat) :
    (finish c st p a s).pending = s.pending ∧
    (finish c st p a s).now = s.now ∧
    (finish c st p a s).link = s.link ∧
    (finish c st p a s).host = s.host ∧
    (finish c st p a s).lines = s.lines ∧
    (finish c st p a s).parkTimer = s.parkTimer ∧
    (finish c st p a s).movers = s.movers ∧
    (finish c st p a s).store = s.store ∧
    (finish c st p a s).sched.ready = s.sched.ready ∧
    (finish c st p a s).fetcher.fetch = s.fetcher.fetch ∧
    (finish c st p a s).fetcher.lastGrant = s.fetcher.lastGrant ∧
    (finish c st p a s).resp.rings = s.resp.rings ∧
    (finish c st p a s).resp.faultSlots = s.resp.faultSlots := by
  unfold finish
  repeat' split
  all_goals simp

@[simp] theorem stopRing_frame (k : RingId) (why : StopReason) :
    (stopRing k why s).pending = s.pending ∧
    (stopRing k why s).now = s.now ∧
    (stopRing k why s).link = s.link ∧
    (stopRing k why s).host = s.host ∧
    (stopRing k why s).sched = s.sched ∧
    (stopRing k why s).lines = s.lines ∧
    (stopRing k why s).parkTimer = s.parkTimer ∧
    (stopRing k why s).movers = s.movers ∧
    (stopRing k why s).store = s.store ∧
    (stopRing k why s).fetcher.fetch = s.fetcher.fetch ∧
    (stopRing k why s).fetcher.lastGrant = s.fetcher.lastGrant ∧
    (stopRing k why s).resp.rings = s.resp.rings ∧
    (stopRing k why s).resp.faultSlots = s.resp.faultSlots := by
  unfold stopRing
  dsimp only
  repeat' split
  all_goals simp

@[simp] theorem raiseStoreFault_frame :
    (raiseStoreFault s).pending = s.pending ∧
    (raiseStoreFault s).now = s.now ∧
    (raiseStoreFault s).link = s.link ∧
    (raiseStoreFault s).host = s.host ∧
    (raiseStoreFault s).fetcher = s.fetcher ∧
    (raiseStoreFault s).sched = s.sched ∧
    (raiseStoreFault s).lines = s.lines ∧
    (raiseStoreFault s).parkTimer = s.parkTimer ∧
    (raiseStoreFault s).movers = s.movers ∧
    (raiseStoreFault s).resp.rings = s.resp.rings ∧
    (raiseStoreFault s).resp.faultSlots = s.resp.faultSlots := by
  unfold raiseStoreFault
  split <;> simp

@[simp] theorem raiseRespFaulted_frame (r : RespId) (x : FaultInfo) :
    (raiseRespFaulted r x s).pending = s.pending ∧
    (raiseRespFaulted r x s).now = s.now ∧
    (raiseRespFaulted r x s).link = s.link ∧
    (raiseRespFaulted r x s).host = s.host ∧
    (raiseRespFaulted r x s).fetcher = s.fetcher ∧
    (raiseRespFaulted r x s).sched = s.sched ∧
    (raiseRespFaulted r x s).lines = s.lines ∧
    (raiseRespFaulted r x s).parkTimer = s.parkTimer ∧
    (raiseRespFaulted r x s).movers = s.movers ∧
    (raiseRespFaulted r x s).store = s.store ∧
    (raiseRespFaulted r x s).resp.rings = s.resp.rings := by
  unfold raiseRespFaulted
  repeat' split
  all_goals simp

@[simp] theorem raiseLap_frame (n : LineId) :
    (raiseLap n s).pending = s.pending ∧
    (raiseLap n s).now = s.now ∧
    (raiseLap n s).link = s.link ∧
    (raiseLap n s).host = s.host ∧
    (raiseLap n s).fetcher = s.fetcher ∧
    (raiseLap n s).sched = s.sched ∧
    (raiseLap n s).parkTimer = s.parkTimer ∧
    (raiseLap n s).movers = s.movers ∧
    (raiseLap n s).store = s.store ∧
    (raiseLap n s).resp.rings = s.resp.rings ∧
    (raiseLap n s).resp.faultSlots = s.resp.faultSlots := by
  unfold raiseLap
  dsimp only
  repeat' split
  all_goals simp

@[simp] theorem makeReady_frame (c : CtxId) :
    (makeReady c s).pending = s.pending ∧
    (makeReady c s).now = s.now ∧
    (makeReady c s).link = s.link ∧
    (makeReady c s).host = s.host ∧
    (makeReady c s).fetcher = s.fetcher ∧
    (makeReady c s).lines = s.lines ∧
    (makeReady c s).parkTimer = s.parkTimer ∧
    (makeReady c s).movers = s.movers ∧
    (makeReady c s).store = s.store ∧
    (makeReady c s).resp = s.resp := by
  simp [makeReady]

@[simp] theorem leaveReady_frame (c : CtxId) :
    (leaveReady c s).pending = s.pending ∧
    (leaveReady c s).now = s.now ∧
    (leaveReady c s).link = s.link ∧
    (leaveReady c s).host = s.host ∧
    (leaveReady c s).fetcher = s.fetcher ∧
    (leaveReady c s).lines = s.lines ∧
    (leaveReady c s).parkTimer = s.parkTimer ∧
    (leaveReady c s).movers = s.movers ∧
    (leaveReady c s).store = s.store ∧
    (leaveReady c s).resp = s.resp ∧
    (leaveReady c s).sched.ctxs = s.sched.ctxs := by
  refine ⟨rfl, rfl, rfl, rfl, rfl, rfl, rfl, rfl, rfl, rfl, rfl⟩

@[simp] theorem activate_frame (n : LineId) :
    (activate n s).pending = s.pending ∧
    (activate n s).now = s.now ∧
    (activate n s).link = s.link ∧
    (activate n s).host = s.host ∧
    (activate n s).fetcher = s.fetcher ∧
    (activate n s).lines = s.lines ∧
    (activate n s).parkTimer = s.parkTimer ∧
    (activate n s).movers = s.movers ∧
    (activate n s).store = s.store ∧
    (activate n s).resp = s.resp := by
  unfold activate
  repeat' split
  all_goals simp

@[simp] theorem joinQueue_frame (n : LineId) (c : CtxId) (M : Nat) :
    (joinQueue n c M s).pending = s.pending ∧
    (joinQueue n c M s).now = s.now ∧
    (joinQueue n c M s).link = s.link ∧
    (joinQueue n c M s).host = s.host ∧
    (joinQueue n c M s).fetcher = s.fetcher ∧
    (joinQueue n c M s).parkTimer = s.parkTimer ∧
    (joinQueue n c M s).movers = s.movers ∧
    (joinQueue n c M s).store = s.store ∧
    (joinQueue n c M s).resp = s.resp := by
  unfold joinQueue
  dsimp only
  repeat' split
  all_goals simp

@[simp] theorem applyHeld_frame (n : LineId) :
    (applyHeld n s).pending = s.pending ∧
    (applyHeld n s).now = s.now ∧
    (applyHeld n s).link = s.link ∧
    (applyHeld n s).host = s.host ∧
    (applyHeld n s).parkTimer = s.parkTimer ∧
    (applyHeld n s).movers = s.movers ∧
    (applyHeld n s).store = s.store ∧
    (applyHeld n s).sched.ready = s.sched.ready ∧
    (applyHeld n s).fetcher.fetch = s.fetcher.fetch ∧
    (applyHeld n s).fetcher.lastGrant = s.fetcher.lastGrant ∧
    (applyHeld n s).resp.rings = s.resp.rings ∧
    (applyHeld n s).resp.faultSlots = s.resp.faultSlots := by
  unfold applyHeld
  dsimp only
  repeat' split
  all_goals simp

@[simp] theorem leaveHead_frame (n : LineId) :
    (leaveHead n s).pending = s.pending ∧
    (leaveHead n s).now = s.now ∧
    (leaveHead n s).link = s.link ∧
    (leaveHead n s).host = s.host ∧
    (leaveHead n s).parkTimer = s.parkTimer ∧
    (leaveHead n s).movers = s.movers ∧
    (leaveHead n s).store = s.store ∧
    (leaveHead n s).fetcher.fetch = s.fetcher.fetch ∧
    (leaveHead n s).fetcher.lastGrant = s.fetcher.lastGrant ∧
    (leaveHead n s).resp.rings = s.resp.rings ∧
    (leaveHead n s).resp.faultSlots = s.resp.faultSlots := by
  simp [leaveHead]

@[simp] theorem drainTest_frame (n : LineId) :
    (drainTest n s).pending = s.pending ∧
    (drainTest n s).now = s.now ∧
    (drainTest n s).link = s.link ∧
    (drainTest n s).host = s.host ∧
    (drainTest n s).parkTimer = s.parkTimer ∧
    (drainTest n s).movers = s.movers ∧
    (drainTest n s).sched.ready = s.sched.ready ∧
    (drainTest n s).fetcher.fetch = s.fetcher.fetch ∧
    (drainTest n s).fetcher.lastGrant = s.fetcher.lastGrant ∧
    (drainTest n s).resp.rings = s.resp.rings ∧
    (drainTest n s).resp.faultSlots = s.resp.faultSlots := by
  unfold drainTest
  dsimp only
  repeat' split
  all_goals simp

@[simp] theorem guardRecheck_frame (n : LineId) :
    (guardRecheck n s).pending = s.pending ∧
    (guardRecheck n s).now = s.now ∧
    (guardRecheck n s).link = s.link ∧
    (guardRecheck n s).host = s.host ∧
    (guardRecheck n s).fetcher = s.fetcher ∧
    (guardRecheck n s).lines = s.lines ∧
    (guardRecheck n s).parkTimer = s.parkTimer ∧
    (guardRecheck n s).movers = s.movers ∧
    (guardRecheck n s).store = s.store ∧
    (guardRecheck n s).resp = s.resp := by
  unfold guardRecheck
  dsimp only
  repeat' split
  all_goals simp

@[simp] theorem removePin_frame (n : LineId) (c : CtxId) :
    (removePin n c s).pending = s.pending ∧
    (removePin n c s).now = s.now ∧
    (removePin n c s).link = s.link ∧
    (removePin n c s).host = s.host ∧
    (removePin n c s).parkTimer = s.parkTimer ∧
    (removePin n c s).movers = s.movers ∧
    (removePin n c s).fetcher.fetch = s.fetcher.fetch ∧
    (removePin n c s).fetcher.lastGrant = s.fetcher.lastGrant ∧
    (removePin n c s).resp.rings = s.resp.rings ∧
    (removePin n c s).resp.faultSlots = s.resp.faultSlots := by
  simp [removePin]

@[simp] theorem unpark_frame (n : LineId) (c : CtxId) :
    (unpark n c s).pending = s.pending ∧
    (unpark n c s).now = s.now ∧
    (unpark n c s).link = s.link ∧
    (unpark n c s).host = s.host ∧
    (unpark n c s).fetcher = s.fetcher ∧
    (unpark n c s).sched = s.sched ∧
    (unpark n c s).movers = s.movers ∧
    (unpark n c s).store = s.store ∧
    (unpark n c s).resp = s.resp := by
  refine ⟨rfl, rfl, rfl, rfl, rfl, rfl, rfl, rfl, rfl⟩

@[simp] theorem parkOn_frame (n : LineId) (c : CtxId) (e d : Nat) :
    (parkOn n c e d s).pending = s.pending ∧
    (parkOn n c e d s).now = s.now ∧
    (parkOn n c e d s).link = s.link ∧
    (parkOn n c e d s).host = s.host ∧
    (parkOn n c e d s).fetcher = s.fetcher ∧
    (parkOn n c e d s).sched = s.sched ∧
    (parkOn n c e d s).movers = s.movers ∧
    (parkOn n c e d s).store = s.store ∧
    (parkOn n c e d s).resp = s.resp := by
  refine ⟨rfl, rfl, rfl, rfl, rfl, rfl, rfl, rfl, rfl⟩

@[simp] theorem handOver_frame (x : Waiter) :
    (handOver x s).pending = s.pending ∧
    (handOver x s).now = s.now ∧
    (handOver x s).link = s.link ∧
    (handOver x s).fetcher = s.fetcher ∧
    (handOver x s).sched = s.sched ∧
    (handOver x s).lines = s.lines ∧
    (handOver x s).parkTimer = s.parkTimer ∧
    (handOver x s).movers = s.movers ∧
    (handOver x s).store = s.store ∧
    (handOver x s).resp = s.resp := by
  refine ⟨rfl, rfl, rfl, rfl, rfl, rfl, rfl, rfl, rfl, rfl⟩

@[simp] theorem takePlace_frame (x : Waiter) (ws : List HostWrite) :
    (takePlace x ws s).pending = s.pending ∧
    (takePlace x ws s).now = s.now ∧
    (takePlace x ws s).link = s.link ∧
    (takePlace x ws s).fetcher = s.fetcher ∧
    (takePlace x ws s).sched = s.sched ∧
    (takePlace x ws s).lines = s.lines ∧
    (takePlace x ws s).parkTimer = s.parkTimer ∧
    (takePlace x ws s).movers = s.movers ∧
    (takePlace x ws s).store = s.store ∧
    (takePlace x ws s).resp = s.resp := by
  refine ⟨rfl, rfl, rfl, rfl, rfl, rfl, rfl, rfl, rfl, rfl⟩

@[simp] theorem awaitPlace_frame (x : Waiter) :
    (awaitPlace x s).pending = s.pending ∧
    (awaitPlace x s).now = s.now ∧
    (awaitPlace x s).link = s.link ∧
    (awaitPlace x s).fetcher = s.fetcher ∧
    (awaitPlace x s).sched = s.sched ∧
    (awaitPlace x s).lines = s.lines ∧
    (awaitPlace x s).parkTimer = s.parkTimer ∧
    (awaitPlace x s).movers = s.movers ∧
    (awaitPlace x s).store = s.store ∧
    (awaitPlace x s).resp = s.resp := by
  unfold awaitPlace
  split <;> simp

@[simp] theorem giveUpPlace_frame (x : Waiter) :
    (giveUpPlace x s).pending = s.pending ∧
    (giveUpPlace x s).now = s.now ∧
    (giveUpPlace x s).link = s.link ∧
    (giveUpPlace x s).fetcher = s.fetcher ∧
    (giveUpPlace x s).sched = s.sched ∧
    (giveUpPlace x s).lines = s.lines ∧
    (giveUpPlace x s).parkTimer = s.parkTimer ∧
    (giveUpPlace x s).movers = s.movers ∧
    (giveUpPlace x s).store = s.store ∧
    (giveUpPlace x s).resp = s.resp := by
  refine ⟨rfl, rfl, rfl, rfl, rfl, rfl, rfl, rfl, rfl, rfl⟩

@[simp] theorem sendMessage_frame (r : RespId) :
    (sendMessage r s).pending = s.pending ∧
    (sendMessage r s).now = s.now ∧
    (sendMessage r s).link = s.link ∧
    (sendMessage r s).fetcher = s.fetcher ∧
    (sendMessage r s).sched = s.sched ∧
    (sendMessage r s).lines = s.lines ∧
    (sendMessage r s).parkTimer = s.parkTimer ∧
    (sendMessage r s).movers = s.movers ∧
    (sendMessage r s).store = s.store ∧
    (sendMessage r s).resp = s.resp := by
  unfold sendMessage
  dsimp only
  repeat' split
  all_goals simp

@[simp] theorem sendInterrupt_frame (r : RespId) :
    (sendInterrupt r s).pending = s.pending ∧
    (sendInterrupt r s).now = s.now ∧
    (sendInterrupt r s).link = s.link ∧
    (sendInterrupt r s).fetcher = s.fetcher ∧
    (sendInterrupt r s).sched = s.sched ∧
    (sendInterrupt r s).lines = s.lines ∧
    (sendInterrupt r s).parkTimer = s.parkTimer ∧
    (sendInterrupt r s).movers = s.movers ∧
    (sendInterrupt r s).store = s.store ∧
    (sendInterrupt r s).resp.faultSlots = s.resp.faultSlots ∧
    (sendInterrupt r s).resp.posts = s.resp.posts := by
  simp [sendInterrupt]

@[simp] theorem askRead_frame (w : Requester) (a : HostAddr) (n : Nat) :
    (askRead w a n s).pending = s.pending ∧
    (askRead w a n s).now = s.now ∧
    (askRead w a n s).fetcher = s.fetcher ∧
    (askRead w a n s).sched = s.sched ∧
    (askRead w a n s).lines = s.lines ∧
    (askRead w a n s).parkTimer = s.parkTimer ∧
    (askRead w a n s).movers = s.movers ∧
    (askRead w a n s).store = s.store ∧
    (askRead w a n s).resp = s.resp := by
  unfold askRead
  split <;> simp

@[simp] theorem issueReads_frame :
    (issueReads s).pending = s.pending ∧
    (issueReads s).now = s.now ∧
    (issueReads s).fetcher = s.fetcher ∧
    (issueReads s).sched = s.sched ∧
    (issueReads s).lines = s.lines ∧
    (issueReads s).parkTimer = s.parkTimer ∧
    (issueReads s).movers = s.movers ∧
    (issueReads s).store = s.store ∧
    (issueReads s).resp = s.resp := by
  refine ⟨rfl, rfl, rfl, rfl, rfl, rfl, rfl, rfl, rfl⟩

@[simp] theorem settleIdle_frame :
    (settleIdle s).pending = s.pending ∧
    (settleIdle s).now = s.now ∧
    (settleIdle s).link = s.link ∧
    (settleIdle s).fetcher = s.fetcher ∧
    (settleIdle s).sched = s.sched ∧
    (settleIdle s).lines = s.lines ∧
    (settleIdle s).parkTimer = s.parkTimer ∧
    (settleIdle s).movers = s.movers ∧
    (settleIdle s).store = s.store ∧
    (settleIdle s).resp = s.resp := by
  unfold settleIdle
  repeat' split
  all_goals simp

@[simp] theorem beginExit_frame :
    (beginExit s).pending = s.pending ∧
    (beginExit s).now = s.now ∧
    (beginExit s).link = s.link ∧
    (beginExit s).host = s.host ∧
    (beginExit s).fetcher = s.fetcher ∧
    (beginExit s).sched = s.sched ∧
    (beginExit s).lines = s.lines ∧
    (beginExit s).parkTimer = s.parkTimer ∧
    (beginExit s).movers = s.movers ∧
    (beginExit s).resp = s.resp := by
  unfold beginExit
  split <;> simp

@[simp] theorem quietWake_frame :
    (quietWake s).pending = s.pending ∧
    (quietWake s).now = s.now ∧
    (quietWake s).link = s.link ∧
    (quietWake s).fetcher = s.fetcher ∧
    (quietWake s).sched = s.sched ∧
    (quietWake s).lines = s.lines ∧
    (quietWake s).parkTimer = s.parkTimer ∧
    (quietWake s).movers = s.movers ∧
    (quietWake s).resp = s.resp := by
  unfold quietWake
  split <;> simp

@[simp] theorem askStore_frame (m : MoverId) :
    (askStore m s).pending = s.pending ∧
    (askStore m s).now = s.now ∧
    (askStore m s).link = s.link ∧
    (askStore m s).host = s.host ∧
    (askStore m s).fetcher = s.fetcher ∧
    (askStore m s).sched = s.sched ∧
    (askStore m s).lines = s.lines ∧
    (askStore m s).parkTimer = s.parkTimer ∧
    (askStore m s).movers = s.movers ∧
    (askStore m s).resp = s.resp := by
  unfold askStore
  split <;> simp

@[simp] theorem askTransfers_frame (f : Nat) (m : MoverId) :
    (askTransfers f m s).pending = s.pending ∧
    (askTransfers f m s).now = s.now ∧
    (askTransfers f m s).fetcher = s.fetcher ∧
    (askTransfers f m s).sched = s.sched ∧
    (askTransfers f m s).lines = s.lines ∧
    (askTransfers f m s).parkTimer = s.parkTimer ∧
    (askTransfers f m s).store = s.store ∧
    (askTransfers f m s).resp = s.resp := by
  induction f generalizing s with
  | zero => simp [askTransfers]
  | succ f ih =>
    unfold askTransfers
    dsimp only
    repeat' split
    all_goals simp [ih]

@[simp] theorem pump_frame (m : MoverId) :
    (pump m s).pending = s.pending ∧
    (pump m s).now = s.now ∧
    (pump m s).fetcher = s.fetcher ∧
    (pump m s).sched = s.sched ∧
    (pump m s).lines = s.lines ∧
    (pump m s).parkTimer = s.parkTimer ∧
    (pump m s).resp = s.resp := by
  simp [pump]

@[simp] theorem pumpAll_frame :
    (pumpAll s).pending = s.pending ∧
    (pumpAll s).now = s.now ∧
    (pumpAll s).fetcher = s.fetcher ∧
    (pumpAll s).sched = s.sched ∧
    (pumpAll s).lines = s.lines ∧
    (pumpAll s).parkTimer = s.parkTimer ∧
    (pumpAll s).resp = s.resp := by
  simp [pumpAll]

@[simp] theorem handTransfers_frame (m : MoverId) (b : Body) :
    (handTransfers m b s).pending = s.pending ∧
    (handTransfers m b s).now = s.now ∧
    (handTransfers m b s).link = s.link ∧
    (handTransfers m b s).fetcher = s.fetcher ∧
    (handTransfers m b s).sched = s.sched ∧
    (handTransfers m b s).lines = s.lines ∧
    (handTransfers m b s).parkTimer = s.parkTimer ∧
    (handTransfers m b s).store = s.store ∧
    (handTransfers m b s).resp = s.resp := by
  unfold handTransfers
  split
  · simp
  · refine ⟨foldl_keeps State.pending _ (by intros; simp) _ _, foldl_keeps State.now _ (by intros; simp) _ _, foldl_keeps State.link _ (by intros; simp) _ _, foldl_keeps State.fetcher _ (by intros; simp) _ _, foldl_keeps State.sched _ (by intros; simp) _ _, foldl_keeps State.lines _ (by intros; simp) _ _, foldl_keeps State.parkTimer _ (by intros; simp) _ _, foldl_keeps State.store _ (by intros; simp) _ _, foldl_keeps State.resp _ (by intros; simp) _ _⟩

@[simp] theorem deliver_frame (m : MoverId) (r : Nat) (bs : List Byte) (bad : List Nat) :
    (deliver m r bs bad s).pending = s.pending ∧
    (deliver m r bs bad s).now = s.now ∧
    (deliver m r bs bad s).fetcher = s.fetcher ∧
    (deliver m r bs bad s).sched = s.sched ∧
    (deliver m r bs bad s).lines = s.lines ∧
    (deliver m r bs bad s).parkTimer = s.parkTimer ∧
    (deliver m r bs bad s).resp = s.resp := by
  unfold deliver
  repeat' split
  all_goals simp

@[simp] theorem stored_frame (m : MoverId) (n : Nat) :
    (stored m n s).pending = s.pending ∧
    (stored m n s).now = s.now ∧
    (stored m n s).fetcher = s.fetcher ∧
    (stored m n s).sched = s.sched ∧
    (stored m n s).lines = s.lines ∧
    (stored m n s).parkTimer = s.parkTimer ∧
    (stored m n s).resp = s.resp := by
  unfold stored
  split <;> simp

@[simp] theorem transferArrived_frame (m : MoverId) (x : Nat) (bs : List Byte) :
    (transferArrived m x bs s).pending = s.pending ∧
    (transferArrived m x bs s).now = s.now ∧
    (transferArrived m x bs s).fetcher = s.fetcher ∧
    (transferArrived m x bs s).sched = s.sched ∧
    (transferArrived m x bs s).lines = s.lines ∧
    (transferArrived m x bs s).parkTimer = s.parkTimer ∧
    (transferArrived m x bs s).resp = s.resp := by
  unfold transferArrived
  repeat' split
  all_goals simp

@[simp] theorem transferFailed_frame (m : MoverId) (a : HostAddr) :
    (transferFailed m a s).pending = s.pending ∧
    (transferFailed m a s).now = s.now ∧
    (transferFailed m a s).link = s.link ∧
    (transferFailed m a s).host = s.host ∧
    (transferFailed m a s).fetcher = s.fetcher ∧
    (transferFailed m a s).sched = s.sched ∧
    (transferFailed m a s).lines = s.lines ∧
    (transferFailed m a s).parkTimer = s.parkTimer ∧
    (transferFailed m a s).store = s.store ∧
    (transferFailed m a s).resp = s.resp := by
  unfold transferFailed
  split <;> simp

end Sys2Proof.Machine
end

