-- ==== Sys2Proof/Laws/Ops.lean ====
section
/-! SUPPORT. What each shared operation can do, once over: completions, notices, the post queues, the write queue of a
line, the host write queue. -/

namespace Sys2Proof.Machine

variable (s : State)

/-- An item joins its ring's post queue while the ring is ACTIVE, and is dropped otherwise (R145). -/
theorem post_posts (r : RespId) (i : PostItem) :
    (post r i s).resp.posts = if (s.respRing r).state = .active then s.resp.posts ++ [⟨r, i⟩] else s.resp.posts := by
  unfold post; split <;> simp

@[simp] theorem post_respRing (r j : RespId) (i : PostItem) : (post r i s).respRing j = s.respRing j := by
  unfold post; split <;> simp

@[simp] theorem post_ctx (r : RespId) (i : PostItem) (c : CtxId) : (post r i s).ctx c = s.ctx c := by
  unfold post; split <;> simp

@[simp] theorem post_ring (r : RespId) (i : PostItem) (k : RingId) : (post r i s).ring k = s.ring k := by
  unfold post; split <;> simp

@[simp] theorem post_line (r : RespId) (i : PostItem) (n : LineId) : (post r i s).line n = s.line n := by
  unfold post; split <;> simp

/-- Freeing a context: it is free, it leaves its ring's window, and nothing else changes (R53, R54). -/
theorem freeCtx_eq {c : CtxId} {o : Operation} (h : s.ctx c = some o) :
    freeCtx c s = (s.setCtx c none).setRing o.ring { s.ring o.ring with window := (s.ring o.ring).window.erase c } := by
  simp [freeCtx, h]

theorem freeCtx_of_free {c : CtxId} (h : s.ctx c = none) : freeCtx c s = s := by simp [freeCtx, h]

theorem freeCtx_other {c d : CtxId} (h : d ≠ c) : (freeCtx c s).ctx d = s.ctx d := by
  unfold freeCtx; split <;> simp [h]

theorem freeCtx_same (c : CtxId) : (freeCtx c s).ctx c = none := by
  unfold freeCtx; split <;> simp [*]

@[simp] theorem freeCtx_line (c : CtxId) (n : LineId) : (freeCtx c s).line n = s.line n := by
  unfold freeCtx; split <;> simp

/-- The end of an operation whose response ring is ACTIVE (R55, R145): DONE with its result, its completion last in
the post queue. -/
theorem finish_active {c : CtxId} {o : Operation} (st : Status) (p a : Nat) (h : s.ctx c = some o)
    (ha : (s.respRing (s.ring o.ring).resp).state = .active) :
    finish c st p a s =
      (s.setCtx c (some { o with phase := .done, stage := none, result := some ⟨st, p, a⟩ })).setPosts
        (s.resp.posts ++ [⟨(s.ring o.ring).resp, .completion c⟩]) := by
  simp [finish, h, ha, post]

/-- The end of an operation whose response ring is not ACTIVE (R151): its context is freed at once. -/
theorem finish_discarded {c : CtxId} {o : Operation} (st : Status) (p a : Nat) (h : s.ctx c = some o)
    (ha : (s.respRing (s.ring o.ring).resp).state ≠ .active) :
    finish c st p a s =
      freeCtx c (s.setCtx c (some { o with phase := .done, stage := none, result := some ⟨st, p, a⟩ })) := by
  simp [finish, h, ha]

theorem finish_other {c d : CtxId} (st : Status) (p a : Nat) (h : d ≠ c) : (finish c st p a s).ctx d = s.ctx d := by
  unfold finish
  split
  · rfl
  · dsimp only
    split
    · simp [h]
    · rw [freeCtx_other _ h]; simp [h]

@[simp] theorem finish_line (c : CtxId) (st : Status) (p a : Nat) (n : LineId) :
    (finish c st p a s).line n = s.line n := by
  simp [State.line]

@[simp] theorem finish_respRing (c : CtxId) (st : Status) (p a : Nat) (r : RespId) :
    (finish c st p a s).respRing r = s.respRing r := by
  simp [State.respRing]

/-- A ring that is neither RUNNING nor PAUSED does not stop (R51). -/
theorem stopRing_other {k : RingId} (why : StopReason) (h1 : (s.ring k).state ≠ .running)
    (h2 : (s.ring k).state ≠ .paused) : stopRing k why s = s := by
  simp [stopRing, h1, h2]

/-- A RUNNING or PAUSED ring that stops is STOPPED with its reason, its take index kept (R51). -/
theorem stopRing_stops {k : RingId} (why : StopReason) (h : (s.ring k).state = .running ∨ (s.ring k).state = .paused) :
    ((stopRing k why s).ring k).state = .stopped ∧ ((stopRing k why s).ring k).stop = some why ∧
      ((stopRing k why s).ring k).take = (s.ring k).take ∧ ((stopRing k why s).ring k).window = (s.ring k).window ∧
      ((stopRing k why s).ring k).windowSize = (s.ring k).windowSize := by
  unfold stopRing
  simp only [h, if_true]
  split
  · simp
  · split <;> simp

/-- Another ring's entry is not touched by a stop (R51). -/
theorem stopRing_ring_other {k j : RingId} (why : StopReason) (h : j ≠ k) : (stopRing k why s).ring j = s.ring j := by
  unfold stopRing
  dsimp only
  repeat' split
  all_goals simp [h]

/-- A read parks and its entry and deadline are kept (R16, R95). -/
theorem parkOn_line (n : LineId) (c : CtxId) (e d : Nat) :
    (parkOn n c e d s).line n = { s.line n with park := parkInsert ⟨c, e⟩ (s.line n).park } := by
  simp [parkOn]

/-- A read leaves a park list and the Park Timer (R17). -/
theorem unpark_line (n : LineId) (c : CtxId) :
    (unpark n c s).line n = { s.line n with park := (s.line n).park.filter fun x => x.ctx ≠ c } := by
  simp [unpark]

/-- Another line's entry is not touched by a read leaving a park list. -/
theorem unpark_line_other {n j : LineId} (c : CtxId) (h : j ≠ n) : (unpark n c s).line j = s.line j := by
  simp [unpark, h]

/-- The drain test leaves a line that is not CLOSING, or not drained, as it is (R6). -/
theorem drainTest_not {n : LineId} (h : (s.line n).state ≠ .closing ∨ drained (s.line n) = false) :
    drainTest n s = s := by
  unfold drainTest
  dsimp only
  split
  · rcases h with h | h
    · exact absurd (‹_ ∧ _›).1 h
    · exact absurd (‹_ ∧ _›).2 (by simp [h])
  · rfl

/-- The drain test frees a CLOSING line that is drained and returns its extents (R6, R132). -/
theorem drainTest_drains {n : LineId} (h1 : (s.line n).state = .closing) (h2 : drained (s.line n) = true) :
    (drainTest n s).line n = Line.freeLine ∧
      (drainTest n s).store.freeExts = returnExtents (s.line n).extents s.store.freeExts := by
  unfold drainTest
  simp only [h1, h2, and_self, if_true]
  split <;> simp

theorem drainTest_line_other {n j : LineId} (h : j ≠ n) : (drainTest n s).line j = s.line j := by
  unfold drainTest
  dsimp only
  repeat' split
  all_goals simp [h]

/-- A writer joins at the end of its line's write queue (R8). -/
theorem joinQueue_line (n : LineId) (c : CtxId) (M : Nat) :
    (joinQueue n c M s).line n = { s.line n with writers := (s.line n).writers ++ [⟨c, M⟩] } := by
  unfold joinQueue
  dsimp only
  split <;> simp [State.line, State.setLine]

theorem joinQueue_line_other {n j : LineId} (c : CtxId) (M : Nat) (h : j ≠ n) :
    (joinQueue n c M s).line j = s.line j := by
  unfold joinQueue
  dsimp only
  split <;> simp [State.line, State.setLine, h]

/-- The writes and messages let into the host write queue stay within its places (R161). -/
theorem letIn_length (q : List HostWrite) (xs : List Waiter) (h : q.length ≤ Config.writeQueue) :
    (letIn q xs).1.length ≤ Config.writeQueue := by
  induction xs generalizing q with
  | nil => exact h
  | cons x xs ih =>
    unfold letIn
    split
    · exact h
    · split
      · exact ih _ (by simpa using ‹_›)
      · exact h

end Sys2Proof.Machine
end

