-- ==== Sys2Proof/Laws/Blocks.lean ====
section
/-! SUPPORT. What the operations of the Ring Fetcher and the Response Unit do, once over: the end of a fetch, an overdue
read, the wait for a place given up. -/

namespace Sys2Proof.Machine

variable (s : State)

/-- A Response Unit that no longer waits touches the host write queue and its waiters only (R161). -/
@[simp] theorem dropItemWait_frame :
    (dropItemWait s).pending = s.pending ∧
    (dropItemWait s).now = s.now ∧
    (dropItemWait s).link = s.link ∧
    (dropItemWait s).fetcher = s.fetcher ∧
    (dropItemWait s).sched = s.sched ∧
    (dropItemWait s).lines = s.lines ∧
    (dropItemWait s).parkTimer = s.parkTimer ∧
    (dropItemWait s).movers = s.movers ∧
    (dropItemWait s).store = s.store ∧
    (dropItemWait s).resp = s.resp := by
  unfold dropItemWait
  split <;> simp

/-- A Response Unit that waits for no place, or still has an item to write, is left as it is (R161). -/
theorem dropItemWait_keeps (h : Waiter.item ∉ s.host.waiters ∨ nextItem s ≠ none) : dropItemWait s = s := by
  unfold dropItemWait
  rcases h with h | h <;> simp [h]

/-- A fetch that has ended leaves its record to a RUNNING or PAUSED ring only (R48). -/
theorem endFetch_taken {f : Fetch} (bytes : List Byte) (h : takesRecords (s.ring f.ring) = true) :
    endFetch f bytes s = takeRecord f bytes s := by
  simp [endFetch, h]

/-- Any other ring's slots are dropped and the context is free again (R48). -/
theorem endFetch_dropped {f : Fetch} (bytes : List Byte) (h : takesRecords (s.ring f.ring) = false) :
    endFetch f bytes s = s.setFetch none := by
  simp [endFetch, h]

/-- A ring takes records exactly while it is RUNNING or PAUSED (R48). -/
theorem takesRecords_iff (x : CmdRing) : takesRecords x = true ↔ x.state = .running ∨ x.state = .paused := by
  simp [takesRecords]

/-- A read issued at a time is overdue exactly when more than 50,000 microseconds have passed (R160). -/
theorem overdue_iff {x : HostRead} {issued : Nat} (h : x.issued = some issued) :
    overdue x s = true ↔ issued + 50000 < s.now := by
  simp [overdue, h, Config.readTimeout]

/-- A failed read leaves the bytes of the store, the lines and the host write queue alone (R49, R86, R160). -/
theorem readFailed_frame (x : HostRead) :
    (readFailed x s).store = s.store ∧ (readFailed x s).lines = s.lines ∧ (readFailed x s).host = s.host ∧
      (readFailed x s).sched = s.sched ∧ (readFailed x s).parkTimer = s.parkTimer := by
  unfold readFailed fetchFailed transferFailed
  repeat' split
  all_goals simp

end Sys2Proof.Machine
end

