-- ==== Sys2Proof/Laws/Ends.lean ====
section
/-! SUPPORT. The end of an operation and what a command leaves alone, said of the shared operations every command ends
with: reaching DONE, and the quiescence state that follows. -/

namespace Sys2Proof.Machine

variable (s : State)

/-- A command that has had its effect answers the next state. -/
theorem took_eq : took s = .next (settleIdle s) := rfl

/-- The quiescence rule changes nothing but the quiescence state (R175). -/
theorem settleIdle_host : (settleIdle s).host = { s.host with quiesce := (settleIdle s).host.quiesce } := by
  unfold settleIdle
  repeat' split
  all_goals rfl

@[simp] theorem settleIdle_ctx (c : CtxId) : (settleIdle s).ctx c = s.ctx c := by simp [State.ctx]
@[simp] theorem settleIdle_line (n : LineId) : (settleIdle s).line n = s.line n := by simp [State.line]
@[simp] theorem settleIdle_ring (k : RingId) : (settleIdle s).ring k = s.ring k := by simp [State.ring]
@[simp] theorem settleIdle_respRing (r : RespId) : (settleIdle s).respRing r = s.respRing r := by simp [State.respRing]
@[simp] theorem settleIdle_mover (m : MoverId) : (settleIdle s).mover m = s.mover m := by simp [State.mover]
@[simp] theorem settleIdle_inPhase (c : CtxId) (p : Phase) : (settleIdle s).inPhase c p = s.inPhase c p := by
  simp [State.inPhase]

/-- What a command's effect leaves alone, the quiescence rule leaves alone too. -/
theorem onlyIn_settleIdle {bs : List Block} {u : State} (h : OnlyIn bs s u) : OnlyIn bs s (settleIdle u) := by
  obtain ⟨h1, h2, h3⟩ := h
  refine ⟨by simpa using h1, by simpa using h2, fun b hb => ?_⟩
  have := h3 b hb
  cases b <;> simp only [Same] at * <;> first | simpa using this | skip
  refine ⟨?_, by simpa using this.2⟩
  rw [settleIdle_host]
  simpa using this.1

/-- Whether a part is idle does not depend on its quiescence state (R175). -/
theorem idle_setQuiesce (q : Quiesce) : idle (s.setHost { s.host with quiesce := q }) = idle s := rfl

/-- The quiescence rule has nothing more to do once it has been applied (R175). -/
@[simp] theorem settleIdle_settled : settleIdle (settleIdle s) = settleIdle s := by
  cases h : s.host.quiesce with
  | awake =>
    by_cases hi : idle s = true ∧ s.host.idleDelay ≠ 0
    · have e : settleIdle s =
          s.setHost { s.host with quiesce := .idling (s.now + s.host.idleDelay.toNat) (postIndices s) } := by
        simp only [settleIdle, h]; exact if_pos hi
      rw [e]; exact if_pos hi.1
    · have e : settleIdle s = s := by simp only [settleIdle, h]; exact if_neg hi
      rw [e, e]
  | idling d p =>
    by_cases hi : idle s = true
    · have e : settleIdle s = s := by simp only [settleIdle, h]; exact if_pos hi
      rw [e, e]
    · have e : settleIdle s = s.setHost { s.host with quiesce := .awake } := by
        simp only [settleIdle, h]; exact if_neg hi
      rw [e]; exact if_neg fun x => hi x.1
  | quiet p =>
    have e : settleIdle s = s := by simp only [settleIdle, h]
    rw [e, e]

/-- An operation that has ended has still ended when the quiescence rule has been applied. -/
theorem endsWith_settleIdle {c : CtxId} {r : Settled} {u : State} (h : EndsWith s c r u) :
    EndsWith s c r (settleIdle u) := by
  intro o ho
  simpa using h o ho

/-- An operation that reaches DONE has ended with its result (R55, R145, R151). -/
theorem endsWith_finish (c : CtxId) (st : Status) (p a : Nat) : EndsWith s c ⟨st, p, a⟩ (finish c st p a s) := by
  intro o ho
  split
  · rw [finish_active s st p a ho ‹_›]; simp
  · rw [finish_discarded s st p a ho ‹_›]; exact freeCtx_same _ c

/-- The same, where what came before left the operation's ring, response ring and tag as they were. -/
theorem endsWith_finish_of {s u : State} (c : CtxId) (st : Status) (p a : Nat)
    (hc : ∀ o, s.ctx c = some o → ∃ q, u.ctx c = some q ∧ q.ring = o.ring ∧ q.tag = o.tag)
    (hr : ∀ k, (u.ring k).resp = (s.ring k).resp) (hs : ∀ r, (u.respRing r).state = (s.respRing r).state) :
    EndsWith s c ⟨st, p, a⟩ (finish c st p a u) := by
  intro o ho
  obtain ⟨q, hq, h1, h2⟩ := hc o ho
  have := endsWith_finish u c st p a q hq
  simpa [h1, h2, hr, hs] using this

end Sys2Proof.Machine
end

