-- ==== Sys2Proof/Laws/Memory.lean ====
section
/-! SUPPORT. The line store as memory: every operation keeps the canonical form, and a read after a write (R20). -/

namespace Sys2Proof.Machine

theorem Memory.wfFrom_le {lo lo' : Nat} {cells : List Host.Cell} (h : Memory.wfFrom lo cells = true) (hl : lo' ≤ lo) :
    Memory.wfFrom lo' cells = true := by
  cases cells with
  | nil => rfl
  | cons x rest =>
    obtain ⟨a, b⟩ := x
    simp only [Memory.wfFrom, Bool.and_eq_true, decide_eq_true_eq] at *
    exact ⟨⟨by omega, h.1.2⟩, h.2⟩

theorem Memory.wfFrom_write {lo addr : Nat} {cells : List Host.Cell} (x : Byte)
    (h : Memory.wfFrom lo cells = true) (ha : lo ≤ addr) : Memory.wfFrom lo (Memory.write cells addr x) = true := by
  induction cells generalizing lo with
  | nil =>
    simp only [Memory.write]
    split
    · rfl
    · simp [Memory.wfFrom, *]
  | cons c rest ih =>
    obtain ⟨a, b⟩ := c
    simp only [Memory.wfFrom, Bool.and_eq_true, decide_eq_true_eq] at h
    obtain ⟨⟨h1, h2⟩, h3⟩ := h
    simp only [Memory.write]
    split
    · split
      · simp [Memory.wfFrom, *]
      · simp only [Memory.wfFrom, Bool.and_eq_true, decide_eq_true_eq]
        exact ⟨⟨ha, ‹_›⟩, ⟨by omega, h2⟩, h3⟩
    · split
      · split
        · exact Memory.wfFrom_le h3 (by omega)
        · simp only [Memory.wfFrom, Bool.and_eq_true, decide_eq_true_eq]
          exact ⟨⟨h1, ‹_›⟩, h3⟩
      · simp only [Memory.wfFrom, Bool.and_eq_true, decide_eq_true_eq]
        exact ⟨⟨h1, h2⟩, ih h3 (by omega)⟩

/-- Writing one byte keeps the canonical form. -/
theorem Memory.wf_write {cells : List Host.Cell} (addr : Nat) (x : Byte) (h : Memory.wf cells = true) :
    Memory.wf (Memory.write cells addr x) = true := Memory.wfFrom_write x h (Nat.zero_le _)

/-- Writing a run of bytes keeps the canonical form. -/
theorem Memory.wf_writeBytes {cells : List Host.Cell} (addr : Nat) (bs : List Byte) (h : Memory.wf cells = true) :
    Memory.wf (Memory.writeBytes cells addr bs) = true := by
  induction bs generalizing cells addr with
  | nil => exact h
  | cons b bs ih => exact ih (addr + 1) (Memory.wf_write addr b h)

theorem Memory.read_of_lt {lo addr : Nat} {cells : List Host.Cell} (h : Memory.wfFrom lo cells = true) (ha : addr < lo) :
    Memory.read cells addr = Config.unwritten := by
  induction cells generalizing lo with
  | nil => rfl
  | cons c rest ih =>
    obtain ⟨a, b⟩ := c
    simp only [Memory.wfFrom, Bool.and_eq_true, decide_eq_true_eq] at h
    have hne : addr ≠ a := by omega
    simp only [Memory.read, hne, if_false]
    exact ih h.2 (by omega)

/-- A read after a write to another place reads what it read before. -/
theorem Memory.read_write_other (cells : List Host.Cell) {addr other : Nat} (x : Byte) (h : other ≠ addr) :
    Memory.read (Memory.write cells addr x) other = Memory.read cells other := by
  induction cells with
  | nil =>
    simp only [Memory.write]
    split
    · rfl
    · simp [Memory.read, h]
  | cons c rest ih =>
    obtain ⟨a, b⟩ := c
    simp only [Memory.write]
    split
    · split
      · rfl
      · simp [Memory.read, h]
    · split
      · subst ‹addr = a›
        split <;> simp [Memory.read, h]
      · simp only [Memory.read]
        split
        · rfl
        · exact ih

theorem Memory.read_write_from {lo addr : Nat} {cells : List Host.Cell} (x : Byte)
    (h : Memory.wfFrom lo cells = true) : Memory.read (Memory.write cells addr x) addr = x := by
  induction cells generalizing lo with
  | nil =>
    simp only [Memory.write]
    split
    · simp [Memory.read, *]
    · simp [Memory.read]
  | cons c rest ih =>
    obtain ⟨a, b⟩ := c
    simp only [Memory.wfFrom, Bool.and_eq_true, decide_eq_true_eq] at h
    obtain ⟨_, h3⟩ := h
    simp only [Memory.write]
    split
    · split
      · have hne : addr ≠ a := by omega
        simp only [Memory.read, hne, if_false]
        rw [Memory.read_of_lt h3 (by omega), ‹x = _›]
      · simp [Memory.read]
    · split
      · split
        · rw [Memory.read_of_lt h3 (by omega), ‹x = _›]
        · simp [Memory.read, *]
      · have hne : addr ≠ a := ‹_›
        simp only [Memory.read, hne, if_false]
        exact ih h3

/-- A read after a write to the same place reads what was written. -/
theorem Memory.read_write_same {cells : List Host.Cell} (addr : Nat) (x : Byte) (h : Memory.wf cells = true) :
    Memory.read (Memory.write cells addr x) addr = x := Memory.read_write_from x h

/-- A read outside a run of bytes written reads what it read before. -/
theorem Memory.read_writeBytes_outside (cells : List Host.Cell) {addr other : Nat} (bs : List Byte)
    (h : other < addr ∨ addr + bs.length ≤ other) :
    Memory.read (Memory.writeBytes cells addr bs) other = Memory.read cells other := by
  induction bs generalizing cells addr with
  | nil => rfl
  | cons b bs ih =>
    rw [Memory.writeBytes, ih]
    · exact Memory.read_write_other _ _ (by simp at h; omega)
    · simp at h; omega

/-- A read inside a run of bytes written reads the byte written there. -/
theorem Memory.read_writeBytes_inside {cells : List Host.Cell} (addr : Nat) (bs : List Byte) (i : Nat)
    (h : Memory.wf cells = true) (hi : i < bs.length) :
    Memory.read (Memory.writeBytes cells addr bs) (addr + i) = bs[i] := by
  induction bs generalizing cells addr i with
  | nil => simp at hi
  | cons b bs ih =>
    rw [Memory.writeBytes]
    cases i with
    | zero =>
      rw [Memory.read_writeBytes_outside _ _ (by omega)]
      simpa using Memory.read_write_same addr b h
    | succ i =>
      have := ih (addr + 1) i (Memory.wf_write addr b h) (by simpa using hi)
      simpa [Nat.add_assoc, Nat.add_comm 1 i] using this

end Sys2Proof.Machine
end

