-- ==== Sys2Proof/Laws/Movers.lean ====
section
/-! SUPPORT. What the operations over movers, taps and closed marks decide, in the terms the statements use: when a mover
has nothing outstanding, what it asks of the store next, which tap of a MIX lies below a bound, which operations a close
marks and which change of policy is held. -/

namespace Sys2Proof.Machine

/-! ### A mover at rest -/

theorem accessOut_iff (m : MoverId) (s : State) : accessOut m s = true ↔
    (∃ a ∈ s.store.waiting, a.mover = some m) ∨ ∃ a, s.store.busy = some (.access a) ∧ a.mover = some m := by
  unfold accessOut
  rw [Bool.or_eq_true]
  refine or_congr (by simp) ?_
  split <;> simp_all

theorem writesWaiting_iff (m : MoverId) (s : State) :
    writesWaiting m s = true ↔ ∃ ws, .data m ws ∈ s.host.waiters := by
  unfold writesWaiting
  rw [List.any_eq_true]
  constructor
  · rintro ⟨x, hx, h⟩
    cases x <;> simp at h
    subst h
    exact ⟨_, hx⟩
  · rintro ⟨ws, h⟩
    exact ⟨_, h, by simp⟩

theorem readsOut_eq_zero_iff (m : MoverId) (s : State) :
    readsOut m s = 0 ↔ ∀ x ∈ s.host.reads, ∀ k, x.requester ≠ .mover m k := by
  unfold readsOut
  rw [List.length_eq_zero_iff, List.filter_eq_nil_iff]
  refine forall₂_congr fun x _ => ?_
  unfold askedBy
  cases x.requester <;> simp

/-- When a mover has nothing outstanding (R156, R161). -/
theorem settledMover_iff (m : MoverId) (s : State) : settledMover m s = true ↔ NothingOut m s := by
  unfold settledMover NothingOut
  rw [Bool.and_eq_true, Bool.and_eq_true, beq_iff_eq, readsOut_eq_zero_iff, Bool.not_eq_true', Bool.not_eq_true',
    ← Bool.not_eq_true, ← Bool.not_eq_true, accessOut_iff, writesWaiting_iff]
  simp [and_assoc]

/-- When every run of a mover has been read whole (R101, R120). -/
theorem runsRead_iff (s : State) (mv : Mover) : runsRead s mv = true ↔ RunsWhole s mv := by
  unfold runsRead RunsWhole runBytes
  rw [List.all_eq_true]
  exact forall₂_congr fun r _ => decide_eq_true_iff

/-! ### What it asks of the store next -/

/-- The bytes that have come without a gap from transfer `x` on: those of the transfers `x`, `x + 1` and so on, up to the
first that has not come. -/
theorem arrivedFrom_eq (a : List (Nat × List Byte)) (x : Nat) (parts : List (List Byte))
    (h : ∀ i bytes, parts[i]? = some bytes → a.find? (fun y => decide (y.1 = x + i)) = some (x + i, bytes))
    (hl : ∀ y ∈ a, y.1 ≠ x + parts.length) (fuel : Nat) (hf : parts.length ≤ fuel) :
    arrivedFrom a fuel x = parts.flatten := by
  induction parts generalizing x fuel with
  | nil =>
    cases fuel with
    | zero => rfl
    | succ n =>
      have : a.find? (fun y => y.1 == x) = none := by
        rw [List.find?_eq_none]; intro y hy; simpa using hl y hy
      simp [arrivedFrom, this]
  | cons p ps ih =>
    cases fuel with
    | zero => simp at hf
    | succ n =>
      have h0 : a.find? (fun y => y.1 == x) = some (x, p) := h 0 p (by simp)
      have := ih (x + 1) (fun i bs hi => by have := h (i + 1) bs (by simpa using hi); simpa [Nat.add_assoc, Nat.add_comm 1 i] using this)
        (fun y hy => by have := hl y hy; simp at this; omega) n (by simp at hf; omega)
      simp [arrivedFrom, h0, this]

/-- The transfers of a list that have come without a gap. -/
theorem exists_parts (a : List (Nat × List Byte)) : ∃ parts : List (List Byte), parts.length ≤ a.length ∧
    (∀ i bytes, parts[i]? = some bytes → a.find? (fun y => decide (y.1 = i)) = some (i, bytes)) ∧
    ∀ y ∈ a, y.1 ≠ parts.length := by
  have hp : ∃ k, ∀ y ∈ a, y.1 ≠ k := by
    refine ⟨(a.map Prod.fst).sum + 1, fun y hy h => ?_⟩
    have := List.single_le_sum (l := a.map Prod.fst) (by simp) y.1 (List.mem_map_of_mem hy)
    omega
  let k := Nat.find hp
  have hk : ∀ i, i < k → ∃ y, a.find? (fun y => decide (y.1 = i)) = some y ∧ y.1 = i := by
    intro i hi
    have := Nat.find_min hp hi
    push Not at this
    obtain ⟨y, hy, rfl⟩ := this
    obtain ⟨z, hz⟩ : ∃ z, a.find? (fun x => decide (x.1 = y.1)) = some z := by
      rw [← Option.isSome_iff_exists, List.find?_isSome]; exact ⟨y, hy, by simp⟩
    exact ⟨z, hz, by simpa using List.find?_some hz⟩
  refine ⟨(List.range k).map fun i => ((a.find? fun y => decide (y.1 = i)).map Prod.snd).getD [], ?_, ?_, ?_⟩
  · have hs : (List.range k) ⊆ a.map Prod.fst := by
      intro i hi
      obtain ⟨y, hy, rfl⟩ := hk i (List.mem_range.mp hi)
      exact List.mem_map_of_mem (List.mem_of_find?_eq_some hy)
    simpa using (List.nodup_range.subperm hs).length_le
  · intro i bytes hi
    rw [List.getElem?_map, Option.map_eq_some_iff] at hi
    obtain ⟨j, hj, rfl⟩ := hi
    obtain ⟨hlt, rfl⟩ := List.getElem?_eq_some_iff.mp hj
    obtain ⟨y, hy, hyi⟩ := hk i (by simpa using hlt)
    simp only [List.getElem_range] at hy ⊢
    rw [hy]
    simp [← hyi]
  · simpa using Nat.find_spec hp

/-- The bytes of a DEPOSIT at hand (R79). -/
theorem bytesAtHand_deposit (n : LineId) (addr : HostAddr) (frames : Nat) (mv : Mover) (data : List Byte) :
    BytesAtHand (.deposit n addr frames) mv data ↔ data = arrivedFrom mv.arrived mv.arrived.length 0 := by
  have key : ∀ parts : List (List Byte),
      (∀ i bytes, parts[i]? = some bytes → mv.arrived.find? (fun x => decide (x.1 = i)) = some (i, bytes)) →
      (∀ x ∈ mv.arrived, x.1 ≠ parts.length) → ∀ fuel, parts.length ≤ fuel →
      arrivedFrom mv.arrived fuel 0 = parts.flatten := fun parts h hl fuel hf =>
    arrivedFrom_eq mv.arrived 0 parts (by simpa using h) (by simpa using hl) fuel hf
  constructor
  · rintro ⟨parts, rfl, h, hl⟩
    refine (key parts h hl _ ?_).symm
    have hs : (List.range parts.length) ⊆ mv.arrived.map Prod.fst := by
      intro i hi
      have hi := List.mem_range.mp hi
      exact List.mem_map.mpr ⟨_, List.mem_of_find?_eq_some (h i parts[i] (List.getElem?_eq_getElem hi)), rfl⟩
    simpa using (List.nodup_range.subperm hs).length_le
  · rintro rfl
    obtain ⟨parts, hlen, h, hl⟩ := exists_parts mv.arrived
    exact ⟨parts, key parts h hl _ hlen, h, hl⟩

/-- The bytes of a writer's burst, once they are at hand (R79, R80, R122). -/
theorem writerBytes_iff {b : Body} {n : LineId} (hb : destOf b = some n) (mv : Mover) (j len : Nat)
    (bytes : List Byte) : writerBytes b mv j len = some bytes ↔
      (∃ M, b = .skip n M ∧ bytes = List.replicate len 0) ∨
        ∃ data, BytesAtHand b mv data ∧ j + len ≤ data.length ∧ bytes = (data.drop j).take len := by
  cases b <;> simp [destOf] at hb
  case deposit l a M =>
    simp only [bytesAtHand_deposit, writerBytes, exists_eq_left, reduceCtorEq, false_and, exists_false, false_or]
    split <;> simp_all [eq_comm]
  case skip l M => subst hb; simp [writerBytes, BytesAtHand, eq_comm]
  case mix d a N w ts =>
    simp only [BytesAtHand, writerBytes, exists_eq_left, reduceCtorEq, false_and, exists_false, false_or]
    split <;> simp_all [eq_comm]

/-- The next write burst of a mover (R31, R79). -/
theorem nextWrite_iff (m : MoverId) (mv : Mover) (b : Body) (s : State) (a : Access) :
    ((destOf b).bind fun n => nextWrite m mv b (s.line n)) = some a ↔ WritesNext s m mv b a := by
  unfold WritesNext
  cases hb : destOf b with
  | none => simp
  | some n =>
    rw [Option.bind_some]
    unfold nextWrite
    constructor
    · intro h
      dsimp only at h
      split at h
      · rename_i hlt
        obtain ⟨bs, hbs, rfl⟩ := Option.map_eq_some_iff.mp h
        exact ⟨n, _, bs, rfl, rfl, hlt, rfl, rfl, (writerBytes_iff hb ..).mp hbs⟩
      · cases h
    · rintro ⟨k, total, bs, hk, rfl, hlt, hp, ha, hbs⟩
      cases hk
      rw [← writerBytes_iff hb] at hbs
      rw [if_pos hlt, Option.map_eq_some_iff]
      exact ⟨bs, by rw [← hp]; exact hbs, by rw [← hp]; exact ha.symm⟩

/-- Run `r` is the one with the fewest bytes among those of a list not yet read whole, at place `k`, the first of equals
(log 18). -/
def IsLeast (s : State) (rs : List Run) (k : Nat) (r : Run) : Prop :=
  rs[k]? = some r ∧ r.data.length < runBytes s r ∧ ∀ (l : Nat) (q : Run), rs[l]? = some q →
    q.data.length < runBytes s q → r.data.length < q.data.length ∨ (r.data.length = q.data.length ∧ k ≤ l)

theorem IsLeast.unique {s : State} {rs : List Run} {k l : Nat} {r q : Run} (h : IsLeast s rs k r)
    (h' : IsLeast s rs l q) : k = l ∧ r = q := by
  have h1 := h.2.2 l q h'.1 h'.2.1
  have h2 := h'.2.2 k r h.1 h.2.1
  have : k = l := by omega
  subst this
  exact ⟨rfl, by simpa [h.1] using h'.1⟩

theorem leastRun_none (s : State) (rs : List Run) (i : Nat) (h : leastRun s rs i = none) :
    ∀ q ∈ rs, runBytes s q ≤ q.data.length := by
  induction rs generalizing i with
  | nil => simp
  | cons p ps ih =>
    simp only [leastRun] at h
    split at h
    · simpa [*] using ih _ h
    · split at h
      · cases h
      · split at h <;> cases h

theorem leastRun_some (s : State) (rs : List Run) (i j : Nat) (r : Run) (h : leastRun s rs i = some (j, r)) :
    ∃ k, j = i + k ∧ IsLeast s rs k r := by
  induction rs generalizing i j r with
  | nil => simp [leastRun] at h
  | cons p ps ih =>
    have later : ∀ j r, leastRun s ps (i + 1) = some (j, r) → (runBytes s p ≤ p.data.length ∨ r.data.length < p.data.length) →
        ∃ k, j = i + k ∧ IsLeast s (p :: ps) k r := by
      intro j r hj hp
      obtain ⟨k, rfl, hk⟩ := ih _ _ _ hj
      refine ⟨k + 1, by omega, by simpa using hk.1, hk.2.1, fun l q hl hq => ?_⟩
      cases l with
      | zero => obtain rfl : p = q := by simpa using hl
                omega
      | succ l => have := hk.2.2 l q (by simpa using hl) hq; omega
    simp only [leastRun] at h
    split at h
    · exact later j r h (.inl (by assumption))
    · split at h
      · rename_i hn
        cases h
        refine ⟨0, rfl, rfl, by omega, fun l q hl hq => ?_⟩
        cases l with
        | zero => obtain rfl : p = q := by simpa using hl
                  omega
        | succ l =>
          have := leastRun_none s ps _ hn q (List.mem_of_getElem? (by simpa using hl))
          omega
      · rename_i x hx
        split at h
        · cases h
          obtain ⟨k, -, hk⟩ := ih _ _ _ hx
          refine ⟨0, rfl, rfl, by omega, fun l q hl hq => ?_⟩
          cases l with
          | zero => obtain rfl : p = q := by simpa using hl
                    omega
          | succ l => have := hk.2.2 l q (by simpa using hl) hq; omega
        · cases h
          exact later j r hx (.inr (Nat.lt_of_not_le (by assumption)))

/-- The next read burst of a mover (R31, R101, R120). -/
theorem nextRead_iff (m : MoverId) (mv : Mover) (s : State) (a : Access) :
    nextRead m mv s = some a ↔ ReadsNext s m mv a := by
  unfold nextRead
  constructor
  · intro h
    obtain ⟨⟨j, r⟩, hx, rfl⟩ := Option.map_eq_some_iff.mp h
    obtain ⟨k, rfl, h1, h2, h3⟩ := leastRun_some s _ _ _ _ hx
    exact ⟨0 + k, r, by rwa [Nat.zero_add], h2, fun l q hl hq => by rw [Nat.zero_add]; exact h3 l q hl hq, rfl, rfl⟩
  · rintro ⟨i, r, h1, h2, h3, hp, ha⟩
    rw [Option.map_eq_some_iff]
    cases hx : leastRun s mv.runs 0 with
    | none =>
      have := leastRun_none s _ _ hx r (List.mem_of_getElem? h1)
      unfold runBytes at this
      omega
    | some x =>
      obtain ⟨k, hk, hl⟩ := leastRun_some s _ _ x.1 x.2 hx
      obtain ⟨rfl, hr⟩ := hl.unique (q := r) (l := i) ⟨h1, h2, h3⟩
      refine ⟨x, rfl, ?_⟩
      rw [show x.1 = k by omega, hr]
      unfold runBytes
      rw [← hp]
      exact ha.symm

/-- What a mover asks of the store (R32): the access the statements describe. -/
theorem askStore_asks (m : MoverId) (s : State) {mv : Mover} {o : Operation} {b : Body} (hm : s.mover m = some mv)
    (ho : s.ctx mv.ctx = some o) (hb : o.body = some b) :
    AsksStore s.store.waiting m mv o b (askStore m s) := by
  have hn : nextAccess m s = if o.phase ≠ .moving ∨ o.stage.isSome = true ∨ accessOut m s = true ∨
      writesWaiting m s = true ∨ mv.failedAt.isSome = true then none else
        ((destOf b).bind fun n => nextWrite m mv b (s.line n)).or (nextRead m mv s) := by
    simp only [nextAccess, hm, ho, hb]
    split
    · rfl
    · cases (destOf b).bind fun n => nextWrite m mv b (s.line n) <;> rfl
  have hold : (o.phase ≠ .moving ∨ o.stage.isSome = true ∨ accessOut m s = true ∨ writesWaiting m s = true ∨
      mv.failedAt.isSome = true) ↔ HoldsBack s.store.waiting m mv o (askStore m s) := by
    have h1 : (askStore m s).store.busy = s.store.busy := by unfold askStore; split <;> rfl
    have h2 : (askStore m s).host = s.host := by unfold askStore; split <;> rfl
    unfold HoldsBack
    rw [h1, h2, accessOut_iff, writesWaiting_iff]
    simp only [or_assoc]
  have hline : ∀ n, (askStore m s).line n = s.line n := by intro n; unfold askStore; split <;> rfl
  have hw : ∀ a, WritesNext (askStore m s) m mv b a ↔ WritesNext s m mv b a := by
    intro a; unfold WritesNext; simp only [hline]
  have hr : ∀ a, ReadsNext (askStore m s) m mv a ↔ ReadsNext s m mv a := by
    intro a; unfold ReadsNext; simp only [hline]
  have hs : ∀ x, nextAccess m s = x → (askStore m s).store.waiting = s.store.waiting ++ x.toList := by
    rintro x rfl; unfold askStore; cases nextAccess m s <;> simp [State.setStore]
  refine ⟨fun h => ?_, fun h => ⟨fun a ha => ?_, fun hno => ⟨fun a ha => ?_, fun hno' => ?_⟩⟩⟩
  · rw [← hold] at h
    rw [hs _ (hn.trans (if_pos h))]; simp
  all_goals rw [← hold] at h; rw [if_neg h] at hn
  · rw [hw, ← nextWrite_iff] at ha
    rw [ha] at hn
    rw [hs _ hn]; rfl
  all_goals
    have hnw : ((destOf b).bind fun n => nextWrite m mv b (s.line n)) = none :=
      Option.eq_none_iff_forall_ne_some.mpr fun a ha => hno a ((hw a).mpr ((nextWrite_iff ..).mp ha))
    rw [hnw] at hn
  · rw [hr, ← nextRead_iff] at ha
    rw [hs _ (hn.trans ha)]; rfl
  · have : nextRead m mv s = none :=
      Option.eq_none_iff_forall_ne_some.mpr fun a ha => hno' a ((hr a).mpr ((nextRead_iff ..).mp ha))
    rw [hs _ (hn.trans this)]; simp

/-! ### The taps of a MIX on a line -/

/-- The taps on a line, with their numbers and window starts. -/
theorem mem_tapsOn (n : LineId) (taps : List MixTap) (starts : List Nat) (i p : Nat) :
    (i, p) ∈ tapsOn n taps starts ↔ ∃ x, taps[i]? = some x ∧ x.line = n ∧ starts[i]? = some p := by
  unfold tapsOn
  rw [List.mem_map]
  constructor
  · rintro ⟨⟨⟨x, q⟩, j⟩, hx, h⟩
    obtain ⟨h1, h2⟩ := List.mem_filter.mp hx
    rw [List.mem_zipIdx_iff_getElem?, List.getElem?_zip_eq_some] at h1
    cases h
    exact ⟨x, h1.1, by simpa using h2, h1.2⟩
  · rintro ⟨x, h1, rfl, h3⟩
    refine ⟨((x, p), i), List.mem_filter.mpr ⟨?_, by simp⟩, rfl⟩
    rw [List.mem_zipIdx_iff_getElem?, List.getElem?_zip_eq_some]
    exact ⟨h1, h3⟩

/-- They stand in ascending number. -/
theorem tapsOn_ascending (n : LineId) (taps : List MixTap) (starts : List Nat) :
    (tapsOn n taps starts).Pairwise fun x y => x.1 < y.1 := by
  unfold tapsOn
  rw [List.pairwise_map]
  refine List.Pairwise.filter _ ?_
  rw [List.pairwise_iff_getElem]
  intro i j hi hj h
  simpa using h

/-- The lowest-numbered tap of a line that lies below a bound (R119, R123). -/
theorem tapsOn_lowest (n : LineId) (taps : List MixTap) (starts : List Nat) (bound : Nat) :
    LowestTapBelow n taps starts bound
      (((tapsOn n taps starts).find? fun x => decide (x.2 < bound)).map Prod.fst) := by
  cases h : (tapsOn n taps starts).find? fun x => decide (x.2 < bound) with
  | none =>
    intro i x p h1 h2 h3
    have := List.find?_eq_none.mp h (i, p) ((mem_tapsOn ..).mpr ⟨x, h1, h2, h3⟩)
    simpa using this
  | some y =>
    obtain ⟨hy, as, bs, he, hbefore⟩ := List.find?_eq_some_iff_append.mp h
    obtain ⟨x, h1, h2, h3⟩ := (mem_tapsOn n taps starts y.1 y.2).mp (by rw [he]; simp)
    refine ⟨⟨x, y.2, h1, h2, h3, by simpa using hy⟩, fun j z p hj g1 g2 g3 => ?_⟩
    have hm : (j, p) ∈ tapsOn n taps starts := (mem_tapsOn ..).mpr ⟨z, g1, g2, g3⟩
    have hp := tapsOn_ascending n taps starts
    rw [he, List.mem_append, List.mem_cons] at hm
    rw [he, List.pairwise_append, List.pairwise_cons] at hp
    rcases hm with hm | hm | hm
    · simpa using hbefore _ hm
    · cases hm; exact absurd hj (lt_irrefl _)
    · have := hp.2.1.1 _ hm; simp only at this; omega

/-- The least of a list and a number is at most each of them and is one of them. -/
theorem foldl_min_spec (ps : List Nat) (a : Nat) :
    (ps.foldl min a ≤ a ∧ ∀ p ∈ ps, ps.foldl min a ≤ p) ∧ (ps.foldl min a = a ∨ ps.foldl min a ∈ ps) := by
  induction ps generalizing a with
  | nil => simp
  | cons p ps ih =>
    obtain ⟨⟨h1, h2⟩, h3⟩ := ih (min a p)
    simp only [List.foldl_cons, List.mem_cons, forall_eq_or_imp]
    refine ⟨⟨by omega, by omega, h2⟩, ?_⟩
    rcases h3 with h3 | h3
    · omega
    · exact .inr (.inr h3)

theorem foldl_max_spec (ps : List Nat) (a : Nat) :
    (a ≤ ps.foldl max a ∧ ∀ p ∈ ps, p ≤ ps.foldl max a) ∧ (ps.foldl max a = a ∨ ps.foldl max a ∈ ps) := by
  induction ps generalizing a with
  | nil => simp
  | cons p ps ih =>
    obtain ⟨⟨h1, h2⟩, h3⟩ := ih (max a p)
    simp only [List.foldl_cons, List.mem_cons, forall_eq_or_imp]
    refine ⟨⟨by omega, by omega, h2⟩, ?_⟩
    rcases h3 with h3 | h3
    · omega
    · exact .inr (.inr h3)

/-- The one pin of a MIX on a line spans the windows of its taps there and no more (R11). -/
theorem mixPin_spans (n : LineId) (c : CtxId) (o : Operation) (frames : Nat) (taps : List MixTap) (x : Pin)
    (hx : x = mixPin n c o frames taps) :
    x.ctx = c ∧ (∀ i p, (i, p) ∈ tapsOn n taps o.starts → x.lo ≤ p ∧ p + frames ≤ x.hi) ∧
      (tapsOn n taps o.starts ≠ [] →
        (∃ i, (i, x.lo) ∈ tapsOn n taps o.starts) ∧ ∃ i p, (i, p) ∈ tapsOn n taps o.starts ∧ p + frames = x.hi) := by
  subst hx
  have hmem : ∀ {i p}, (i, p) ∈ tapsOn n taps o.starts → p ∈ (tapsOn n taps o.starts).map Prod.snd :=
    fun h => List.mem_map_of_mem (f := Prod.snd) h
  have hback : ∀ {p}, p ∈ (tapsOn n taps o.starts).map Prod.snd → ∃ i, (i, p) ∈ tapsOn n taps o.starts := by
    intro p hp
    obtain ⟨⟨i, q⟩, h, rfl⟩ := List.mem_map.mp hp
    exact ⟨i, h⟩
  unfold mixPin
  obtain ⟨⟨-, l1⟩, l2⟩ := foldl_min_spec ((tapsOn n taps o.starts).map Prod.snd)
    (((tapsOn n taps o.starts).map Prod.snd).headD 0)
  obtain ⟨⟨-, g1⟩, g2⟩ := foldl_max_spec ((tapsOn n taps o.starts).map Prod.snd) 0
  refine ⟨rfl, fun i p h => ⟨l1 p (hmem h), Nat.add_le_add_right (g1 p (hmem h)) _⟩, fun hne => ?_⟩
  obtain ⟨q, qs, hq⟩ : ∃ q qs, (tapsOn n taps o.starts).map Prod.snd = q :: qs :=
    List.exists_cons_of_ne_nil (by simpa using hne)
  refine ⟨hback ?_, ?_⟩
  · dsimp only
    rcases l2 with h | h
    · rw [h, hq]; simp
    · exact h
  · rcases g2 with h | h
    · obtain ⟨i, hi⟩ := hback (p := q) (by rw [hq]; simp)
      refine ⟨i, q, hi, ?_⟩
      have := g1 q (hmem hi)
      simp only [h]
      omega
    · obtain ⟨i, hi⟩ := hback h
      exact ⟨i, _, hi, rfl⟩

/-! ### Closed marks and held changes -/

/-- Which operations a close marks (R115, R129). -/
theorem getsMark_iff (n : LineId) (o : Operation) : getsMark n o = true ↔ TakesMark n o := by
  unfold getsMark TakesMark
  split
  · rename_i h
    simp only [h]
    cases o.phase <;> simp
  · rename_i h
    simp only [h]
    constructor
    · intro hk
      simp only [Bool.and_eq_true, decide_eq_true_eq] at hk
      obtain ⟨rfl, hp⟩ := hk
      exact .inr ⟨_, _, _, _, _, _, rfl, hp⟩
    · rintro (⟨_, _, _, _, _, hx, -⟩ | ⟨_, _, _, _, _, _, hx, hp⟩)
      · cases hx
      · cases hx; simp [hp]
  · rename_i h1 h2
    refine ⟨(nomatch ·), ?_⟩
    rintro (⟨_, _, _, _, _, hx, -⟩ | ⟨_, _, _, _, _, _, hx, -⟩)
    · exact absurd hx (h1 _ _ _ _ _)
    · exact absurd hx (h2 _ _ _ _ _ _ _)

theorem moverOf_isSome_iff (c : CtxId) (s : State) :
    (moverOf c s).isSome = true ↔ ∃ m mv, s.mover m = some mv ∧ mv.ctx = c := by
  unfold moverOf
  rw [List.find?_isSome]
  constructor
  · rintro ⟨m, -, h⟩
    split at h
    · cases h
    · exact ⟨m, _, by assumption, by simpa using h⟩
  · rintro ⟨m, mv, h1, h2⟩
    exact ⟨m, List.mem_finRange m, by simp [h1, h2]⟩

/-- Which writer holds a change to GUARDED (R15, log 17). -/
theorem mustHold_iff (n : LineId) (s : State) : mustHold n s = true ↔ HoldsChange n s := by
  unfold mustHold HoldsChange headInPhase
  cases h : (s.line n).writers with
  | nil => simp
  | cons x xs =>
    simp only [List.cons.injEq, and_assoc, exists_and_left, exists_eq_left', ← moverOf_isSome_iff, Bool.or_eq_true]
    cases s.inPhase x.ctx .moving <;> cases s.inPhase x.ctx .ready <;> simp

end Sys2Proof.Machine
end

