-- ==== Sys2Proof/Tests/Slice0.lean ====
section
/-! SUPPORT. Tests: every well-formedness check refuses an ill-formed term, records written out byte by byte from the
layouts of R64 to R69 decode as the spec reads them, every statement's hypotheses are met by a concrete state, and small
steps give what the spec's worked cases give. Expected values are the spec's, by rule or worked case. -/

namespace Sys2Proof.Tests

open Sys2Proof Sys2Proof.Machine

set_option Elab.async false

/-! ### States the tests start from -/

/-- A running command ring of 16 entries bound to response ring 0. -/
def ring (base : HostAddr) (prio windowSize : Nat) (window : List CtxId) : CmdRing :=
  { CmdRing.disabledRing with
    state := .running
    base := base
    size := 16
    prio := prio
    windowSize := windowSize
    window := window }

/-- An operation of a ring in a phase. -/
def op (k : RingId) (b : Body) (p : Phase) : Operation :=
  { ring := k, take := 0, slots := 1, tag := 0x0A31, fence := false, noIrq := false, body := some b, phase := p,
    starts := [], deadline := none, waitTap := 0, marks := [], stage := none, ended := 0, result := none }

/-- An OPEN line of 2 channels with C = 1,000 and W = 1,600. -/
def openLine : Line :=
  { Line.freeLine with
    state := .opened
    channels := 2
    cap := 1000
    w := 1600
    lap := ⟨true, 0⟩
    extents := [⟨0, 2⟩] }

/-- ENABLE has taken effect, the store is READY, rings 0 and 2 run, response ring 0 is ACTIVE, line 7 is OPEN. -/
def base : State :=
  ((((State.reset.setHost { HostPort.reset with enable := .on }).setStore
    { StoreController.reset with state := .ready, freeExts := [⟨2, 262142⟩] }).setRing 0 (ring 0x10000 4 1 [])).setRing 2
      (ring 0x200000 1 16 [])).setRespRing 0
        { RespRing.absentRing with state := .active, base := 0x20000, size := 16, phase := true } |>.setLine 7 openLine

/-- Context 1 holds an operation of ring 2. -/
def work (b : Body) (p : Phase) (g : Operation → Operation := id) : State :=
  (base.setRing 2 (ring 0x200000 1 16 [1])).setCtx 1 (some (g (op 2 b p)))

/-- The control context holds a control record. -/
def control (b : Body) (p : Phase := .waiting) : State :=
  (base.setRing 0 (ring 0x10000 4 1 [0])).setCtx 0 (some (op 0 b p))

/-- Line 7's entry changed. -/
def onLine (g : Line → Line) (s : State) : State := s.setLine 7 (g (s.line 7))

/-- Mover 0 carries the operation of context 1. -/
def moving (mv : Mover) (s : State) : State := s.setMover 0 (some mv)

/-- The state after a command. -/
def after (i : Instr) (s : State) : State :=
  match exec i s with
  | .next t => t
  | .fault _ => s
  | .refused _ => s

/-- The result an operation has ended with. -/
def resultOf (c : CtxId) (s : State) : Option Settled := (s.ctx c).bind Operation.result

/-- The phase of an operation. -/
def phaseOf (c : CtxId) (s : State) : Option Phase := (s.ctx c).map Operation.phase

/-! ### More states -/

/-- Ring `k`'s entry replaced. -/
def onRing (k : RingId) (x : CmdRing) (s : State) : State := s.setRing k x

/-- The store of a state replaced. -/
def onStoreOf (s : State) (c : StoreController) : State := s.setStore c

/-- The store of `base` replaced. -/
def onStore (c : StoreController) : State := base.setStore c

/-- A step has a next state. -/
def hasNext (s : State) : Bool :=
  match step s with
  | .next _ => true
  | .fault _ => false
  | .refused _ => false

/-- After reset, with the configuration registers written: the least control ring, the greatest response ring 0. -/
def configured : State :=
  State.reset.setHost { HostPort.reset with ctrlSize := 4, resp0Size := 13, ctrlBaseLo := 64 }

/-- The part is idling, its deadline reached. -/
def idling : State :=
  { base with now := 200, host := { base.host with idleDelay := 200, quiesce := .idling 200 (postIndices base) } }

/-- The part is QUIET. -/
def quiet : State := after .idleDeadlineExpiry idling

/-- The part has been woken; the store is leaving self-refresh. -/
def woken : State := after (.controlWrite 1) quiet

/-- The part has become QUIET again during the exit. -/
def quietExit : State := woken.setHost { woken.host with quiesce := .quiet (some (postIndices woken)) }

/-- A completion waits and one place of response ring 0 is left. -/
def itemReady : State :=
  ((work (.skip 7 480) .done fun o => { o with result := some ⟨.ok, 2080, 480⟩ }).setRespRing 0
    { base.respRing 0 with unreleased := 15 }).setPosts [⟨0, .completion 1⟩]

/-- One item has been written to response ring 0. -/
def written : State := after .itemWrite (itemReady.setRespRing 0 (base.respRing 0))

/-- Messages are enabled and vector 0 is masked with its message pending. -/
def messaging : State :=
  base.setHost { base.host with
    msgEnable := true
    vectors := base.host.vectors.set 0 { addr := 0xFEE00000, data := 0x41, masked := true, pending := true } }

/-- Every place of the host write queue is taken and a message waits. -/
def crowded : State :=
  base.setHost { base.host with
    writeQ := List.replicate 64 ⟨.data, 0, [0]⟩
    waiters := [.message ⟨.message 0, 0, []⟩] }

/-- A moderated ring with one unsignalled item, as old as its moderation time. -/
def unsignalled : State :=
  { base.setRespRing 0 { base.respRing 0 with
      intOn := true
      modCount := 4
      modTime := 500
      unsignalled := 1
      oldest := some 3 } with
    now := 503 }

/-- A writer of 480 frames that mover 0 carries. -/
def writing (b : Body) (mv : Mover) : State :=
  moving mv (onLine (fun l => { l with writers := [⟨1, 480⟩] }) (work b .moving))

/-- A SKIP whose first burst waits at the store. -/
def carrying : State := pump 0 (writing (.skip 7 480) (freshMover 1))

/-- A TAP of one frame whose read waits at the store. -/
def reading : State :=
  pump 0 (moving { freshMover 1 with runs := [⟨7, 1511, 1, []⟩] }
    (work (.tap 7 0 1 0 true 1511 0) .moving fun o => { o with starts := [1511] }))

/-- Ring 2 has a slot posted. -/
def posted : State := onRing 2 { base.ring 2 with take := 15, post := 1 } base

/-- The fetch of that slot. -/
def fetching : State := after .fetchGrant posted

/-- A READY deposit. -/
def queued : State := makeReady 1 (onLine (fun l => { l with writers := [⟨1, 480⟩] }) (work (.deposit 7 0x1000 480) .queued))

/-- The deposit with its first four reads asked for. -/
def depositing : State := after .moverGrant queued

/-- Ring 2 holds a done record, the waiting one, and a later one. -/
def fenced : State :=
  ((onRing 2 (ring 0x200000 1 16 [3, 1, 2]) (work (.skip 7 1) .waiting)).setCtx 3 (some (op 2 (.skip 7 1) .done))).setCtx 2
    (some (op 2 (.skip 7 2) .waiting))

/-- A TAP parked on line 7 with its deadline. -/
def parked : State :=
  parkOn 7 1 2080 100 (work (.tap 7 0 480 100 true 1600 0) .parked fun o =>
    { o with starts := [1600], deadline := some 100 })

/-- A SKIP of 480 frames all stored, with two taps parked at window ends 2,080 and 2,081. -/
def stored480 : State :=
  (((parkOn 7 3 2081 100 (parkOn 7 2 2080 100
    (writing (.skip 7 480) { freshMover 1 with written := 3840 }))).setCtx 2
      (some { op 2 (.tap 7 0 480 100 true 1600 0) .parked with starts := [1600] })).setCtx 3
      (some { op 2 (.tap 7 0 480 100 true 1601 0) .parked with starts := [1601] }))

/-- A deposit whose first read has failed. -/
def failed480 : State := writing (.deposit 7 0x1000 480) { freshMover 1 with failedAt := some 0x1000 }

/-- A MIX of two taps of line 7 into line 7. -/
def mixBody : Body := .mix (some 7) 0 480 100 [⟨7, false, 16384, 480⟩, ⟨7, true, 1, 1121⟩]

/-- The MIX at a stage of its passes. -/
def mixAt (x : MixStage) : State := work mixBody .passing fun o => { o with starts := [1120], stage := some x }

/-- The MIX at the grant of mover 0. -/
def mixGranted (k : Nat) : State :=
  moving (freshMover 1) (onLine (fun l => { l with writers := [⟨1, 480⟩] })
    (work mixBody .ready fun o => { o with starts := [1120, 1121], stage := some (.grant k) }))

/-- The MIX at the end of its moving. -/
def mixEnding (x : Option MixStage) : State :=
  moving { freshMover 1 with written := 3840 } (onLine (fun l => { l with writers := [⟨1, 480⟩] })
    (work mixBody .moving fun o => { o with starts := [1120, 1121], stage := x }))

/-- The MIX with its status decided OK. -/
def mixed : State := mixEnding (some (.destination .ok 0 3))

/-- A READY TAP of the oldest window of line 7. -/
def granting : State :=
  makeReady 1 (work (.tap 7 0 480 0 true 600 0) .waiting fun o => { o with starts := [600] })

/-- A TAP of one frame that has read and handed over everything. -/
def tapRead : State :=
  moving { freshMover 1 with runs := [⟨7, 1511, 1, List.replicate 8 0⟩], hostDone := 8 }
    (work (.tap 7 0 1 0 true 1511 0) .moving fun o => { o with starts := [1511] })

/-- A READY query. -/
def queried : State := after .queryLine (control (.queryLine 7 0x40))

/-- A CLOSE_LINE of line 7 with a parked tap, a moving writer and a queued one. -/
def closing : State :=
  parkOn 7 1 2080 100 (((onLine (fun l => { l with writers := [⟨2, 480⟩, ⟨3, 480⟩], lapPending := true })
    (control (.closeLine 7))).setCtx 2 (some (op 2 (.skip 7 480) .moving))).setCtx 3 (some (op 2 (.skip 7 480) .queued)))
    |>.setCtx 1 (some (op 2 (.tap 7 0 480 100 true 1600 0) .parked))

/-- Line 7 is CLOSING and nothing holds it. -/
def drainedLine : State := onLine (fun l => { l with state := .closing }) (control (.closeLine 7) .acting)

/-- Line 7 is CLOSING, its CLOSE_LINE in the control context. -/
def closes (s : State) : State :=
  (onLine (fun l => { l with state := .closing }) s).setCtx 0 (some (op 0 (.closeLine 7) .acting))

/-- The SKIP of 480 frames all stored, with a held change, a queued SKIP behind it, and a TAP and a MIX parked at 2,080. -/
def storedNext : State :=
  let t := onLine (fun l =>
    { l with writers := [⟨1, 480⟩, ⟨4, 10⟩], park := [⟨2, 2080⟩, ⟨3, 2080⟩], held := true, policy := .freeRunning }) stored480
  ((t.setCtx 4 (some (op 2 (.skip 7 10) .queued))).setCtx 3 (some (op 2 mixBody .parked))).setCtx 0
    (some (op 0 (.setLine 7 .guarded ⟨true, 0⟩) .acting))

/-- The MIX READY, with no mover yet. -/
def mixReady : State :=
  makeReady 1 (onLine (fun l => { l with writers := [⟨1, 480⟩] })
    (work mixBody .queued fun o => { o with starts := [1120, 1121] }))

/-- The fetch of a two-slot record whose ring has stopped. -/
def stoppedFetch : State := onRing 2 { fetching.ring 2 with state := .stopped } fetching

/-- A completion and, behind it, a message wait for places of a full host write queue. -/
def itemWaits : State :=
  itemReady.setHost { itemReady.host with
    writeQ := List.replicate 64 ⟨.data, 0, [0]⟩
    waiters := [.item, .message ⟨.message 0, 0, []⟩] }

/-- Response ring 1 with its interrupt on, a completion and a LAP notice in its post queue, and command ring 2 bound
to it. -/
def faulting : State :=
  ((((onRing 2 { ring 0x200000 1 16 [1] with resp := 1 } (work (.skip 7 480) .done)).setRespRing 1
    { base.respRing 0 with intOn := true, unsignalled := 2, oldest := some 0 }).setPosts
      [⟨1, .completion 1⟩, ⟨1, .lap 7⟩]).setHost { base.host with msgEnable := true })
    |> onLine fun l => { l with lapPending := true }

/-- A DELETE_RING of ring 2, whose record is PARKED and whose response ring has FAULTED. -/
def deletingParked : State :=
  (parkOn 7 1 2080 100 ((onRing 2 (ring 0x200000 1 16 [1]) (control (.deleteRing 2))).setCtx 1
    (some (op 2 (.tap 7 0 480 100 true 1600 0) .parked)))).setRespRing 0 { base.respRing 0 with state := .faulted }

/-- A held SET_LINE of line 7. -/
def heldLine : State := onLine (fun l => { l with held := true }) (control (.setLine 7 .guarded ⟨true, 0⟩) .acting)

/-- A DELETE_RING of ring 2, which holds a WAITING record. -/
def deleting : State :=
  (onRing 2 (ring 0x200000 1 16 [1]) (control (.deleteRing 2))).setCtx 1 (some (op 2 (.skip 7 1) .waiting))

/-- The deposit with its first read come: its fifth is asked for and its first burst waits at the store. -/
def deposited : State := after (.hostReadComplete 0 ((List.range 512).map (BitVec.ofNat 8))) depositing

/-- The host has withdrawn permission, a fetch's read is held, and a write is queued. -/
def heldRead : State :=
  let t := after .fetchGrant (after (.requestPermissionChange false) posted)
  t.setHost { t.host with writeQ := [⟨.data, 0, [0]⟩] }

/-- A DELETE_RESPONSE of ring 1, to which nothing is bound, with a LAP notice of line 7 in its post queue. -/
def deletingResp : State :=
  (onLine (fun l => { l with lapPending := true }) ((control (.deleteResponse 1)).setRespRing 1
    { base.respRing 0 with fill := 3 })).setPosts [⟨1, .lap 7⟩, ⟨0, .lap 9⟩]

/-! ### WellFormed -/

theorem test_wf_alignment : wfBody (.deposit 0 2 1) = false ∧ wfBody (.queryStore 8) = false ∧
    wfBody (.createRing 1 4 0 1 0 32) = false ∧ wfBody (.mix (some 1) 4 1 0 [⟨0, false, 0, 0⟩]) = false := by decide
theorem test_wf_frames : wfBody (.skip 0 0) = false ∧ wfBody (.skip 0 65537) = false ∧ wfBody (.skip 0 65536) = true :=
  by decide
theorem test_wf_wait : wfBody (.tap 0 0 1 4000001 false 0 0) = false ∧ wfBody (.tap 0 0 1 4000000 false 0 0) = true :=
  by decide
theorem test_wf_position : wfBody (.tap 0 0 1 0 true (2 ^ 48) 0) = false := by decide
theorem test_wf_taps : wfBody (.mix none 0 1 0 []) = false ∧
    wfBody (.mix none 0 1 0 (List.replicate 9 ⟨0, false, 0, 0⟩)) = false ∧
    wfBody (.mix none 0 1 0 [⟨0, true, 0, 2 ^ 48⟩]) = false := by decide
theorem test_wf_open : wfBody (.openLine 0 0 .guarded ⟨false, 0⟩ 1) = false ∧
    wfBody (.openLine 0 17 .guarded ⟨false, 0⟩ 1) = false ∧ wfBody (.openLine 0 1 .guarded ⟨false, 0⟩ 0) = false ∧
    wfBody (.openLine 0 1 .guarded ⟨false, 0⟩ 16777217) = false := by decide
theorem test_wf_rings : wfBody (.createRing 0 4 0 1 0 0) = false ∧ wfBody (.createRing 1 13 0 1 0 0) = false ∧
    wfBody (.createRing 1 3 0 1 0 0) = false ∧ wfBody (.createRing 1 4 4 1 0 0) = false ∧
    wfBody (.createRing 1 4 0 33 0 0) = false ∧ wfBody (.deleteRing 0) = false ∧ wfBody (.pauseRing 0) = false ∧
    wfBody (.resumeRing 0) = false := by decide
theorem test_wf_responses : wfBody (.createResponse 0 4 1 true 0 0) = false ∧
    wfBody (.createResponse 1 14 1 true 0 0) = false ∧ wfBody (.createResponse 1 4 0 true 0 0) = false ∧
    wfBody (.createResponse 1 4 256 true 0 0) = false ∧ wfBody (.createResponse 1 4 1 true 65536 0) = false ∧
    wfBody (.deleteResponse 0) = false := by decide
theorem test_wf_commands : wfInstr (.deposit 0) = false ∧ wfInstr (.mixLineVisit 0) = false ∧
    wfInstr (.registerWrite 0x08 .word 1) = false ∧ wfInstr (.registerWrite 0x08 .half 1) = true ∧
    wfInstr (.storeAccessComplete [(33554432, .single)]) = false ∧ wfInstr (.hostReadComplete 0 []) = false ∧
    wfInstr (.ringDrainComplete 0) = false ∧ wfInstr (.parkDeadlineExpiry 0) = false := by decide

/-! ### Records, byte by byte -/

/-- A slot: the bytes given, then zeros. -/
def slot (bs : List Byte) : List Byte := bs ++ List.replicate (64 - bs.length) 0#8

theorem test_decode_deposit : decodeRecord 2 (slot [0x01, 1, 0x02, 0, 0x34, 0x12, 7, 0, 0, 0x10, 0, 0, 1, 0, 0, 0,
    0xE0, 1, 0, 0]) = .record ⟨false, true, 0x1234, .deposit 7 0x100001000 480⟩ := by decide +kernel
theorem test_decode_skip : decodeRecord 1 (slot [0x02, 1, 0x01, 0, 9, 0, 255, 0, 0, 0, 0, 0, 0, 0, 0, 0, 0, 0, 1, 0])
    = .record ⟨true, false, 9, .skip 255 65536⟩ := by decide +kernel
theorem test_decode_tap : decodeRecord 15 (slot [0x03, 1, 0x04, 0, 1, 0, 3, 0, 4, 0, 0, 0, 0, 0, 0, 0, 2, 0, 0, 0,
    0xD0, 7, 0, 0, 0x40, 0x77, 1, 0, 0, 0, 0, 0, 5, 0]) = .record ⟨false, false, 1, .tap 3 4 2 2000 true 96064 5⟩ :=
  by decide +kernel

/-- The MIX of section 4.8: its two slots. -/
def mixBytes : List Byte :=
  [0x04, 2, 0x09, 0, 0x31, 0x0A, 20, 0, 0, 0, 0, 0, 0, 0, 0, 0, 0xC0, 3, 0, 0, 0xD0, 7, 0, 0, 4, 0, 0, 0,
    20, 0, 0x00, 0x20, 0xC0, 0x12, 0, 0, 0, 0, 0, 0, 21, 0, 0x00, 0xF0, 0x80, 0x25, 0, 0, 0, 0, 0, 0,
    22, 1, 0x00, 0x40, 0x40, 0x42, 0x0F, 0, 0, 0, 0, 0,
    23, 0, 0x00, 0x08, 0xC0, 3, 0, 0, 0, 0, 0, 0] ++ List.replicate 52 0#8

theorem test_decode_mix : decodeRecord 5 mixBytes = .record ⟨true, false, 0x0A31, .mix (some 20) 0 960 2000
    [⟨20, false, 8192, 4800⟩, ⟨21, false, 0xF000, 9600⟩, ⟨22, true, 16384, 1000000⟩, ⟨23, false, 2048, 960⟩]⟩ := by
  decide +kernel
theorem test_decode_mix_wait : decodeRecord 5 (mixBytes.set 22 0x3E) = .badRecord 0x140005 := by decide +kernel
theorem test_decode_open : decodeRecord 0 (slot [0x20, 1, 0, 0, 2, 0, 12, 0, 2, 1, 1, 3, 0x80, 0x20, 5, 0]) =
    .record ⟨false, false, 2, .openLine 12 2 .guarded ⟨true, 3⟩ 336000⟩ := by decide +kernel
theorem test_decode_close : decodeRecord 0 (slot [0x21, 1, 0, 0, 2, 0, 12]) = .record ⟨false, false, 2, .closeLine 12⟩ :=
  by decide +kernel
theorem test_decode_set : decodeRecord 0 (slot [0x22, 1, 0, 0, 2, 0, 12, 0, 0, 0, 1, 2]) =
    .record ⟨false, false, 2, .setLine 12 .freeRunning ⟨true, 2⟩⟩ := by decide +kernel
theorem test_decode_queries : decodeRecord 0 (slot [0x23, 1, 0, 0, 2, 0, 12, 0, 0x10]) =
      .record ⟨false, false, 2, .queryLine 12 16⟩ ∧
    decodeRecord 0 (slot [0x24, 1, 1, 0, 5, 0, 0, 0, 0x40, 0, 0, 0, 0, 0, 0, 0x80]) =
      .record ⟨true, false, 5, .queryStore 0x8000000000000040⟩ := by decide +kernel
theorem test_decode_ring_records : decodeRecord 0 (slot [0x28, 1, 0, 0, 2, 0, 0, 0, 3, 12, 1, 32, 2, 0, 0, 0,
      0, 0, 1]) = .record ⟨false, false, 2, .createRing 3 12 1 32 2 0x10000⟩ ∧
    decodeRecord 0 (slot [0x29, 1, 0, 0, 2, 0, 0, 0, 15]) = .record ⟨false, false, 2, .deleteRing 15⟩ ∧
    decodeRecord 0 (slot [0x2A, 1, 0, 0, 2, 0, 0, 0, 1]) = .record ⟨false, false, 2, .pauseRing 1⟩ ∧
    decodeRecord 0 (slot [0x2B, 1, 0, 0, 2, 0, 0, 0, 1]) = .record ⟨false, false, 2, .resumeRing 1⟩ := by
  decide +kernel
theorem test_decode_response_records : decodeRecord 0 (slot [0x2C, 1, 0, 0, 2, 0, 0, 0, 3, 13, 255, 1, 0xF4, 1, 0, 0,
      0x40]) = .record ⟨false, false, 2, .createResponse 3 13 255 true 500 64⟩ ∧
    decodeRecord 0 (slot [0x2D, 1, 0, 0, 2, 0, 0, 0, 2]) = .record ⟨false, false, 2, .deleteResponse 2⟩ := by
  decide +kernel
theorem test_decode_rejects : decodeRecord 0 (slot [0x01, 1]) = .wrongRing ∧ decodeRecord 3 (slot [0x20, 1]) = .wrongRing ∧
    decodeRecord 3 (slot [0x04, 1, 0, 0, 0, 0, 0, 0, 0, 0, 0, 0, 0, 0, 0, 0, 1, 0, 0, 0, 0, 0, 0, 0, 4]) =
      .badRecord 1572879 := by decide +kernel

/-! ### States that meet each statement's hypotheses -/

theorem witness_StepRunsFrontCommand : State.reset.pending = [] ∧ base.store.state = .ready := by decide +kernel
theorem witness_LinesInvariant : LinesOk (work (.skip 7 1) .waiting) := by
  unfold LinesOk LineOk; decide +kernel
theorem witness_StoreInvariant : StoreOk base := by unfold StoreOk; decide +kernel
theorem witness_StoreInvariant_blocks : BlocksOk base := by unfold BlocksOk FreeTableOk; decide +kernel
theorem witness_StoreInvariant_records : RecordsOk base := by
  intro c o b h
  have hc : ∀ c, base.ctx c = none := by decide +kernel
  simp [hc c] at h
theorem witness_WindowsInvariant : ContextsOk (work (.skip 7 1) .waiting) := by unfold ContextsOk; decide +kernel
theorem witness_ResponsesInvariant : RespOk base ∧ QueueOk base := by unfold RespOk QueueOk; decide +kernel
/-- The steps the invariants speak of, from those states. -/
theorem witness_steps : hasNext (work (.skip 7 1) .waiting) = true ∧ hasNext base = true := by decide +kernel
theorem witness_RecordsDecodeBack : wfBody (.deposit 255 0xFFFFFFFFFFFFFFFC 65536) = true ∧
    isWorkKind (kindOfBody (.deposit 255 0xFFFFFFFFFFFFFFFC 65536)) = decide ((15 : RingId) ≠ 0) ∧
    wfBody (.deleteResponse 3) = true ∧ isWorkKind (kindOfBody (.deleteResponse 3)) = decide ((0 : RingId) ≠ 0) := by
  decide
theorem witness_DecodedRecordsAreInRange : kindOfByte 0x05 = none ∧ kindOfByte 0x20 = some .openLine ∧
    isWorkKind .openLine = false ∧ kindOfByte 0x04 = some .mix ∧
    (headerChecks (slot [0x01, 1, 0x10]) .deposit ++ bodyChecks (slot [0x01, 1, 0x10]) 1 .deposit).head? =
      some ⟨2, 3, false⟩ := by decide +kernel
theorem witness_EnableClear : base.host.linkUp = true ∧ base.host.enable = .on ∧ State.reset.host.linkUp = true ∧
    State.reset.host.enable = .off ∧ (after (.enableSet 0) configured).host.enable = .held := by decide +kernel
theorem witness_EnableSet : configured.host.linkUp = true ∧ configured.host.enable = .off ∧
    configured.host.ctrlSize.toNat = 4 ∧ configured.host.resp0Size.toNat = 13 ∧ configured.store.state = .calibrating ∧
    (after (.calibrationComplete false) configured).store.state = .fault ∧
    (after (.calibrationComplete false) configured).host.enable = .off ∧ State.reset.host.ctrlSize.toNat = 0 := by
  decide +kernel
theorem witness_ControlWriteWakes : quiet.host.linkUp = true ∧ quiet.host.enable ≠ .off ∧ isQuiet quiet = true ∧
    quiet.store.power = .selfRefresh ∧ State.reset.host.enable = .off := by decide +kernel
theorem witness_ControlWriteWakes_sets : (0 : Word32).getLsbD 0 = false ∧ (3 : Word32).getLsbD 0 = true ∧
    (after (.controlWrite 3) configured).host.enable = .held := by decide +kernel
theorem witness_WindowWrites : base.host.linkUp = true ∧ base.host.enable ≠ .off ∧ State.reset.host.linkUp = true ∧
    (0xFC : BitVec 8).toNat % 4 = 0 ∧ writeIgnored (0xFC : BitVec 8).toNat = true ∧
    writeIgnored (0x04 : BitVec 8).toNat = true := by decide +kernel
theorem witness_PostWrite : base.host.linkUp = true ∧ (base.ring 2).state = .running ∧ (base.ring 2).size = 16 ∧
    (base.ring 3).state = .disabled := by decide +kernel
theorem witness_ReleaseWrite : itemReady.host.linkUp = true ∧ (itemReady.respRing 0).state = .active ∧
    (written.respRing 0).unreleased = 1 ∧ (written.respRing 0).release = 0 ∧ (base.respRing 1).state = .absent := by
  decide +kernel
theorem witness_ReleaseWrite_fault : faulting.host.linkUp = true ∧ (faulting.respRing 1).state = .active ∧
    (faulting.respRing 1).size = 16 ∧ (faulting.respRing 0).state = .active ∧ faulting.resp.faultSlots.get 1 = none ∧
    (faulting.ring 2).resp = 1 ∧ (faulting.ring 2).state = .running ∧ (faulting.ring 2).window.Nodup := by
  decide +kernel
theorem witness_LinkEvents : base.host.linkUp = true ∧ (after (.linkReset true) base).host.linkUp = false ∧
    messaging.host.msgEnable = true ∧ (messaging.host.vectors.get 0).pending = true ∧ messaging.host.waiters = [] := by
  decide +kernel
theorem witness_LinkEvents_held : heldRead.host.linkUp = true ∧ heldRead.host.permitted = false ∧
    heldRead.host.reads.map HostRead.issued = [none] ∧ heldRead.host.writeQ.length = 1 := by decide +kernel
theorem witness_HostWriteIssue : written.host.writeQ ≠ [] ∧ written.host.linkUp = true ∧ written.host.permitted = true ∧
    crowded.host.writeQ.length = 64 ∧ crowded.host.waiters = [.message ⟨.message 0, 0, []⟩] ∧
    waiterWrites (.message ⟨.message 0, 0, []⟩) = some [⟨.message 0, 0, []⟩] := by decide +kernel
theorem witness_HostWriteIssue_item : itemWaits.host.writeQ.length = 64 ∧ itemWaits.host.linkUp = true ∧
    itemWaits.host.waiters.head? = some .item ∧ waiterWrites .item = none ∧ itemWaits.host.permitted = true := by
  decide +kernel
theorem witness_CalibrationComplete : State.reset.store.state = .calibrating ∧
    (after (.enableSet 0) configured).store.state = .calibrating ∧
    (after (.enableSet 0) configured).host.enable = .held := by decide +kernel
theorem witness_RefreshSteps : (onStore { base.store with timer := 78 }).store.timer = 78 ∧ base.store.state = .ready ∧
    base.store.power = .active ∧ base.store.busy = none ∧ base.store.waiting = [] ∧
    (onStore { base.store with debt := 8 }).store.debt = 8 ∧ (onStore { base.store with debt := 7 }).store.debt = 7 ∧
    (after .forcedRefresh (onStore { base.store with debt := 8 })).store.busy = some .refresh := by decide +kernel
theorem witness_StoreAccessStart : carrying.store.waiting = [⟨some 0, 0, 4800, 512, some (List.replicate 512 0)⟩] ∧
    carrying.store.state = .ready ∧ carrying.store.power = .active ∧ carrying.store.busy = none ∧
    carrying.store.debt = 0 ∧ (carrying.mover 0).map Mover.ctx = some 1 ∧
    (carrying.ctx 1).bind Operation.body = some (.skip 7 480) := by decide +kernel
theorem witness_ReadBurst : (after .storeAccessStart reading).store.busy = some (.access ⟨some 0, 0, 4088, 8, none⟩) ∧
    ((reading.mover 0).map Mover.runs).map List.length = some 1 ∧ phaseOf 1 reading = some .moving := by decide +kernel
theorem witness_WriteBurst : (after .storeAccessStart carrying).store.busy =
      some (.access ⟨some 0, 0, 4800, 512, some (List.replicate 512 0)⟩) ∧
    Memory.wf (after .storeAccessStart carrying).store.cells = true ∧
    (after .storeAccessStart carrying).store.marks = [] := by decide +kernel
theorem witness_WriteBurst_flips : (wordsOf 4800 8).filter (fun w => decide (¬(4800 ≤ 32 * w ∧ 32 * (w + 1) ≤ 4800 + 8) ∧
    markOf ([(150, .single)].foldl addFlip []) w = some .single)) = [150] := by decide +kernel
theorem witness_Quiescence : idling.host.quiesce = .idling 200 (postIndices base) ∧ idling.now = 200 ∧
    idling.store.state = .ready ∧ idling.store.power = .active ∧
    (onStoreOf idling { idling.store with state := .fault }).store.state = .fault ∧ woken.store.power = .exiting ∧
    isQuiet woken = false ∧ quietExit.store.power = .exiting ∧
    quietExit.host.quiesce = .quiet (some (postIndices quietExit)) := by decide +kernel
theorem witness_IdlePeriod : settleIdle base = base ∧ settleIdle idling = idling ∧ settleIdle quiet = quiet ∧
    idle base = true ∧ hasNext base = true := by decide +kernel
theorem witness_FetchGrant : grantedRing posted = some (2, some 1) ∧ eligible posted 2 = true := by decide +kernel
theorem witness_FetchArbiter : (∀ k, (posted.ring k).prio ≤ 4) ∧ (∀ k, k ≠ 0 → (posted.ring k).prio ≤ 3) ∧
    grantedRing base = none ∧ eligible (onRing 0 { base.ring 0 with post := 15 } posted) 0 = true := by decide +kernel
theorem witness_RecordTaken : issuedRead 0 fetching = some ⟨0, .fetch, 0x2003C0, 64, some 0⟩ ∧
    fetching.fetcher.fetch = some ⟨2, 1, none⟩ ∧ (mixBytes.take 64).length = 64 ∧ byteAt mixBytes 1 = 2 ∧
    slotsAllowed 1 0 = false ∧ (fetching.ring 2).state = .running ∧ (fetching.respRing 0).state = .active := by
  decide +kernel
theorem witness_RecordTaken_second :
    (after (.hostReadComplete 0 (mixBytes.take 64)) stoppedFetch).fetcher.fetch = some ⟨2, 1, some (mixBytes.take 64)⟩ ∧
    issuedRead 1 (after (.hostReadComplete 0 (mixBytes.take 64)) stoppedFetch) =
      some ⟨1, .fetch, 0x200000, 64, some 0⟩ ∧ (mixBytes.drop 64).length = 64 := by decide +kernel
theorem witness_HostReadEnds : issuedRead 0 fetching = some ⟨0, .fetch, 0x2003C0, 64, some 0⟩ ∧
    issuedRead 0 depositing = some ⟨0, .mover 0 0, 0x1000, 512, some 0⟩ ∧
    (0 + 50000 ≤ ({ depositing with now := 50000 } : State).now) ∧ (depositing.mover 0).isSome = true := by
  decide +kernel
theorem witness_HostReadEnds_next : (depositing.mover 0).map Mover.hostDone = some (min 3840 (512 * 4)) ∧
    depositing.host.reads.length = 4 ∧ (depositing.mover 0).map Mover.failedAt = some none ∧
    phaseOf 1 depositing = some .moving ∧ 480 * frameSize (depositing.line 7) = 3840 ∧
    min ((3840 + 511) / 512 - 4) (4 - 3) = 1 ∧ depositing.host.permitted = true := by decide +kernel
theorem witness_HostReadEnds_late : issuedRead 0 { fetching with now := 50001 } = some ⟨0, .fetch, 0x2003C0, 64, some 0⟩ ∧
    0 + 50000 < ({ fetching with now := 50001 } : State).now := by decide +kernel
theorem witness_StartOrder : (fenced.ring 2).window = [3] ++ 1 :: [2] ∧ phaseOf 1 fenced = some .waiting ∧
    (fenced.ctx 1).bind Operation.body = some (.skip 7 1) ∧ phaseOf 3 fenced = some .done ∧
    nextStart 2 fenced = some (1, .skip 7 1) := by decide +kernel
theorem witness_WriterStart : nextStart 2 (work (.deposit 7 0x1000 1000) .waiting) = some (1, .deposit 7 0x1000 1000) ∧
    nextStart 2 (work (.skip 7 1001) .waiting) = some (1, .skip 7 1001) ∧
    nextStart 2 (work (.skip 8 1) .waiting) = some (1, .skip 8 1) ∧ (base.line 8).state = .free ∧
    (base.line 7).cap = 1000 ∧ (base.line 7).writers = [] := by decide +kernel
theorem witness_Commit : (stored480.mover 0).map Mover.ctx = some 1 ∧ phaseOf 1 stored480 = some .moving ∧
    (stored480.line 7).state = .opened ∧ (stored480.line 7).writers = [⟨1, 480⟩] ∧
    (stored480.mover 0).map Mover.failedAt = some none ∧ (stored480.line 7).held = false ∧
    (stored480.mover 0).map Mover.written = some (480 * frameSize (stored480.line 7)) ∧
    ((stored480.line 7).park.map Parked.ctx).Nodup ∧ (stored480.line 7).park.map Parked.windowEnd = [2080, 2081] ∧
    (stored480.line 7).w + 480 = 2080 := by decide +kernel
theorem witness_Commit_line : LineOk (stored480.line 7) := by unfold LineOk; decide +kernel
theorem witness_NothingOut : NothingOut 0 stored480 ∧ NothingOut 0 storedNext ∧ NothingOut 0 failed480 ∧
    NothingOut 0 tapRead ∧ NothingOut 0 (mixEnding none) := by
  simp only [← settledMover_iff]; decide +kernel
theorem witness_Commit_mix : (mixed.ctx 1).bind Operation.stage = some (.destination .ok 0 3) ∧
    phaseOf 1 mixed = some .moving ∧ (mixed.line 7).writers = [⟨1, 480⟩] ∧ (mixed.mover 0).isSome = true := by
  decide +kernel
theorem witness_Commit_next : ((storedNext.line 7).writers.map Writer.ctx ++ (storedNext.line 7).park.map Parked.ctx) =
      [1, 4, 2, 3] ∧ ([1, 4, 2, 3] : List CtxId).Nodup ∧ (∀ y ∈ (storedNext.line 7).writers, y.ctx ≠ 0) ∧
    (storedNext.line 7).held = true ∧ (storedNext.line 7).park.map Parked.windowEnd = [2080, 2080] ∧
    phaseOf 1 storedNext = some .moving := by decide +kernel
theorem witness_Commit_closing : let s := closes (writing (.skip 7 480) { freshMover 1 with written := 3840 })
    (s.line 7).state = .closing ∧ (s.line 7).writers = [⟨1, 480⟩] ∧ (s.line 7).park = [] ∧ (s.line 7).pins = [] := by
  decide +kernel
theorem witness_WriterAbandoned : (failed480.mover 0).map Mover.failedAt = some (some 0x1000) ∧
    (failed480.ctx 1).bind Operation.stage = none ∧
    (failed480.line 7).writers = [⟨1, 480⟩] ∧ phaseOf 1 failed480 = some .moving := by decide +kernel
theorem witness_WriterAbandoned_closing : ((closes failed480).line 7).writers = [⟨1, 480⟩] ∧
    ((closes failed480).line 7).state = .closing ∧ ((failed480.line 7).writers.map Writer.ctx).Nodup ∧
    (∀ y ∈ (failed480.line 7).writers, y.ctx ≠ 0) := by decide +kernel
theorem witness_TapStart : nextStart 2 (work (.tap 7 0 1000 0 false 1000 0) .waiting) =
      some (1, .tap 7 0 1000 0 false 1000 0) ∧ oldestCounting (base.line 7) = 600 ∧
    nextStart 2 (work (.tap 7 0 1 5 true 1600 3) .waiting) = some (1, .tap 7 0 1 5 true 1600 3) ∧
    maskFits (base.line 7) 3 = true ∧ maskFits (base.line 7) 4 = false := by decide +kernel
theorem witness_TapGrant : bestOf granting granting.sched.ready = some 1 ∧ granting.mover 3 = none ∧
    (granting.ctx 1).bind Operation.body = some (.tap 7 0 480 0 true 600 0) ∧
    ((granting.ctx 1).map Operation.starts) = some [600] := by decide +kernel
theorem witness_TapEnd : (tapRead.mover 0).map Mover.ctx = some 1 ∧ phaseOf 1 tapRead = some .moving ∧
    (tapRead.mover 0).map (runsRead tapRead) = some true ∧
    (tapRead.mover 0).map Mover.hostDone = some (4 * (selectedChannels (tapRead.line 7) 0).length * 1) := by
  decide +kernel
theorem witness_ParkExpiry : (parked.ctx 1).bind parkedLine = some 7 ∧ (1, 100) ∈ parked.parkTimer ∧
    100 ≤ ({ parked with now := 100 } : State).now ∧ ⟨1, 2080⟩ ∈ (parked.line 7).park ∧ (base.line 7).park = [] := by
  decide +kernel
theorem witness_MixShapePass : nextStart 2 (work mixBody .waiting) = some (1, mixBody) ∧
    ((mixAt (.shape 2)).ctx 1).bind Operation.stage = some (.shape 2) ∧ (tapsOf mixBody).length = 2 ∧
    destOf mixBody = some 7 ∧ phaseOf 1 (mixAt (.shape 2)) = some .passing := by decide +kernel
theorem witness_MixPlacement : ((mixAt (.place 1)).ctx 1).bind Operation.body = some mixBody ∧
    ((mixAt (.place 1)).ctx 1).bind Operation.stage = some (.place 1) ∧
    (tapsOf mixBody)[1]? = some ⟨7, true, 1, 1121⟩ ∧ 1121 + 480 = ((mixAt (.place 1)).line 7).w + 1 := by decide +kernel
theorem witness_MixWake : ((mixAt (.wake 1)).ctx 1).bind Operation.stage = some (.wake 1) ∧
    ((mixAt (.wake 1)).ctx 1).map Operation.starts = some [1120] := by decide +kernel
theorem witness_MixJoin : ((mixAt .join).ctx 1).bind Operation.stage = some .join ∧
    ((mixAt .join).ctx 1).bind Operation.body = some mixBody := by decide +kernel
theorem witness_MixGrant : ((mixGranted 0).mover 0).map Mover.ctx = some 1 ∧ (mixGranted 0).mover 1 = none ∧
    (mixGranted 0).mover 2 = none ∧ (mixGranted 0).mover 3 = none ∧
    ((mixGranted 0).ctx 1).bind Operation.stage = some (.grant 0) ∧ phaseOf 1 (mixGranted 0) = some .ready ∧
    (firstAppearances ((tapsOf mixBody).map MixTap.line))[0]? = some 7 := by decide +kernel
theorem witness_MixGrant_first : bestOf mixReady mixReady.sched.ready = some 1 ∧ mixReady.mover 0 = none ∧
    phaseOf 1 mixReady = some .ready ∧ (mixReady.line 7).writers.head?.map Writer.ctx = some 1 ∧
    ((mixReady.line 7).writers.map Writer.ctx).Nodup ∧ ∀ y ∈ (mixReady.line 7).writers, y.ctx ≠ 0 := by decide +kernel
theorem witness_MixGrant_taps : LowestTapBelow 7 (tapsOf mixBody) [1120, 1121] 1120 none ∧
    LowestTapBelow 7 (tapsOf mixBody) [1120, 1121] 1121 (some 0) ∧
    LowestTapBelow 7 (tapsOf mixBody) [1122, 1121] 1122 (some 1) := by
  have h1 := tapsOn_lowest 7 (tapsOf mixBody) [1120, 1121] 1120
  have h2 := tapsOn_lowest 7 (tapsOf mixBody) [1120, 1121] 1121
  have h3 := tapsOn_lowest 7 (tapsOf mixBody) [1122, 1121] 1122
  exact ⟨h1, h2, h3⟩
theorem witness_MixEnd : ((mixEnding (some (.ending 0))).ctx 1).bind Operation.stage = some (.ending 0) ∧
    phaseOf 1 (mixEnding (some (.ending 0))) = some .moving ∧
    ((mixEnding none).mover 0).map (runsRead (mixEnding none)) = some true ∧
    ((mixEnding none).mover 0).map Mover.written = some (4 * ((mixEnding none).line 7).channels * 480) ∧
    (mixEnding none).mover 1 = none ∧ (mixEnding none).mover 2 = none ∧ (mixEnding none).mover 3 = none := by
  decide +kernel
theorem witness_MoverGrant : bestOf queued queued.sched.ready = some 1 ∧ queued.mover 0 = none ∧ queued.host.reads = [] ∧
    (queued.ctx 1).bind Operation.body = some (.deposit 7 0x1000 480) ∧ bestOf base [] = none := by decide +kernel
theorem witness_Queries : nextStart 0 (control (.queryLine 7 0x40)) = some (0, .queryLine 7 0x40) ∧
    nextStart 0 (control (.queryStore 0x40)) = some (0, .queryStore 0x40) ∧
    bestOf queried queried.sched.ready = some 0 ∧ queried.mover 0 = none ∧
    ((after .moverGrant queried).mover 0).map Mover.ctx = some 0 ∧
    (((after .moverGrant queried).mover 0).bind Mover.report).isSome = true ∧
    (after .moverGrant queried).host.waiters = [] ∧ (after .moverGrant queried).host.writeQ = [] := by decide +kernel
theorem witness_OpenLine : nextStart 0 (control (.openLine 9 1 .guarded ⟨false, 0⟩ 1024)) =
      some (0, .openLine 9 1 .guarded ⟨false, 0⟩ 1024) ∧ (base.line 9).state = .free ∧ (base.line 7).state ≠ .free ∧
    base.store.state ≠ .fault ∧ allocate (blocksNeeded 1024 1) base.store.freeExts = some ([⟨2, 1⟩], [⟨3, 262141⟩]) ∧
    allocate (blocksNeeded 16777216 16) base.store.freeExts = none := by decide +kernel
theorem witness_CloseLine : nextStart 0 closing = some (0, .closeLine 7) ∧ (closing.line 7).state = .opened ∧
    (closing.line 7).writers = [⟨2, 480⟩, ⟨3, 480⟩] ∧ closing.inPhase 2 .guardWait = false ∧
    (closing.line 7).park = [⟨1, 2080⟩] ∧ nextStart 0 (control (.closeLine 7)) = some (0, .closeLine 7) ∧
    (base.line 7).writers = [] ∧ (base.line 7).pins = [] ∧ nextStart 0 (control (.closeLine 8)) = some (0, .closeLine 8) := by
  decide +kernel
theorem witness_CloseLine_marked : (∀ o, getsMark 7 o = true ↔ TakesMark 7 o) ∧ getsMark 7 (op 2 mixBody .queued) = true ∧
    getsMark 7 (op 2 mixBody .moving) = false ∧ getsMark 9 (op 2 mixBody .ready) = false :=
  ⟨getsMark_iff 7, by decide, by decide, by decide⟩
theorem witness_LineDrain : (drainedLine.line 7).state = .closing ∧ (drainedLine.line 7).writers = [] ∧
    (drainedLine.line 7).park = [] ∧ (drainedLine.line 7).pins = [] ∧ phaseOf 0 drainedLine = some .acting := by
  decide +kernel
theorem witness_SetLine : nextStart 0 (control (.setLine 7 .guarded ⟨true, 1⟩)) = some (0, .setLine 7 .guarded ⟨true, 1⟩) ∧
    (heldLine.line 7).held = true ∧
    phaseOf 0 heldLine = some .acting ∧ (base.line 7).writers = [] := by decide +kernel
theorem witness_SetLine_hold : HoldsChange 7 stored480 ∧ HoldsChange 7 (mixGranted 0) ∧ ¬HoldsChange 7 base ∧
    ¬HoldsChange 7 heldLine ∧ ¬HoldsChange 7 mixReady := by
  simp only [← mustHold_iff]; decide +kernel
theorem witness_RingControl : nextStart 0 (control (.createRing 15 4 3 32 0 64)) =
      some (0, .createRing 15 4 3 32 0 64) ∧ (base.ring 15).state = .disabled ∧ (base.respRing 0).state = .active ∧
    nextStart 0 (control (.pauseRing 2)) = some (0, .pauseRing 2) ∧ (base.ring 2).state = .running ∧
    nextStart 0 (control (.resumeRing 2)) = some (0, .resumeRing 2) ∧
    ((control (.pauseRing 2)).ctx 0).map Operation.ring = some 0 := by decide +kernel
theorem witness_DeleteRing : nextStart 0 deleting = some (0, .deleteRing 2) ∧ (deleting.ring 2).window = [1] ∧
    (deleting.ctx 1).map Operation.ring = some 2 ∧ phaseOf 1 deleting = some .waiting ∧ heldContexts 2 base = 0 ∧
    ((base.ring 2).state ≠ .draining) ∧ (onRing 2 { base.ring 2 with state := .draining } base |>.ring 2).state = .draining :=
  by decide +kernel
theorem witness_DeleteRing_parked : nextStart 0 deletingParked = some (0, .deleteRing 2) ∧
    deletingParked.inPhase 1 .parked = true ∧ ((deletingParked.ctx 1).bind parkedLine) = some 7 ∧
    (deletingParked.ring 2).window = [1] ∧ (deletingParked.respRing 0).state = .faulted ∧
    (deletingParked.line 7).state ≠ .closing ∧ (deletingParked.ctx 1).map Operation.ring = some 2 := by decide +kernel
theorem witness_ResponseControl : nextStart 0 (control (.createResponse 1 4 1 true 0 64)) =
      some (0, .createResponse 1 4 1 true 0 64) ∧ (base.ring 0).resp ≠ 1 ∧ (base.respRing 1).state = .absent ∧
    nextStart 0 (control (.deleteResponse 1)) = some (0, .deleteResponse 1) ∧ base.resp.posts = [] ∧
    (base.ring 0).state ≠ .disabled := by decide +kernel
theorem witness_ResponseControl_delete : nextStart 0 deletingResp = some (0, .deleteResponse 1) ∧
    (deletingResp.respRing 1).state = .active ∧ (∀ k, ¬((deletingResp.ring k).state ≠ .disabled ∧ (deletingResp.ring k).resp = 1)) ∧
    ⟨1, .completion 0⟩ ∉ deletingResp.resp.posts ∧ ⟨1, .lap 7⟩ ∈ deletingResp.resp.posts ∧
    (deletingResp.line 7).lapPending = true ∧
    ((onRing 2 { base.ring 2 with resp := 1 } deletingResp).ring 2).state ≠ .disabled := by decide +kernel
theorem witness_ItemWrite : itemReady.resp.posts = [] ++ ⟨0, .completion 1⟩ :: [] ∧ canWrite itemReady 0 = true ∧
    (itemReady.respRing 0).unreleased = 15 ∧ (itemReady.respRing 0).size = 16 ∧ itemReady.host.waiters = [] ∧
    itemReady.host.writeQ = [] ∧ (unsignalled.respRing 0).oldest = some 3 ∧ (unsignalled.respRing 0).intOn = true ∧
    (unsignalled.respRing 0).modTime = 500 ∧ (unsignalled.respRing 0).unsignalled = 1 ∧ 3 + 500 ≤ unsignalled.now := by
  decide +kernel
theorem witness_ItemWrite_waits : itemWaits.host.waiters.head? = some .item ∧
    (after .hostWriteIssue itemWaits).host.writeQ.length = 63 ∧
    (after .hostWriteIssue itemWaits).host.waiters = itemWaits.host.waiters ∧
    nextItem itemWaits = some ⟨0, .completion 1⟩ ∧ nextItem base = none := by decide +kernel
theorem witness_ItemAndReportLayout : (base.line 7).extents.length ≤ 8 ∧ (base.line 7).f ≤ (base.line 7).w ∧
    (base.line 7).cap < 2 ^ 32 ∧ blocksOf base.store.freeExts < 2 ^ 32 := by decide +kernel
theorem witness_AddressMapping : 0 < (base.line 7).cap ∧ 0 < (base.line 7).channels ∧
    (base.line 7).cap * (4 * (base.line 7).channels) ≤ 4096 * blocksOf (base.line 7).extents := by decide +kernel
theorem witness_AddressMapping_burst : burstAt (base.line 7) 1511 8 0 = (4088, 8) ∧
    burstAt (base.line 7) 1512 16 0 = (4096, 16) := by decide +kernel
theorem witness_Allocation : FreeTableOk [⟨0, 2⟩, ⟨3, 5⟩, ⟨9, 5⟩] ∧
    allocate 8 [⟨0, 2⟩, ⟨3, 5⟩, ⟨9, 5⟩] = some ([⟨3, 5⟩, ⟨9, 3⟩], [⟨0, 2⟩, ⟨12, 2⟩]) ∧
    allocate 13 [⟨0, 2⟩, ⟨3, 5⟩, ⟨9, 5⟩] = none := by unfold FreeTableOk; decide
theorem witness_MixArithmetic : (∀ t ∈ [((8192 : Int), [(1 : Int), -1]), (8192, [0, 0])], t.2.length = 2) ∧
    mixOutput [(8192, [1, -1]), (8192, [0, 0])] = ([1, -1], 0) ∧
    samples (sampleBytes (-2147483648) ++ [0]) = [-2147483648] ∧ sampleBytes 2147483647 = [0xFF, 0xFF, 0xFF, 0x7F] := by
  decide
theorem witness_LineHistory : LineOk (base.line 7) ∧ (base.line 7).state ≠ .free ∧ hasNext base = true := by
  unfold LineOk; decide +kernel

/-! ### Small steps, with the spec's values -/

/-- R3's example: C = 1,000, W = 1,600, a DEPOSIT of 300 frames meets a host read error: F becomes 900. -/
theorem test_abandoned_floor :
    let t := after (.writerAbandoned 0) (onLine (fun l => { l with writers := [⟨1, 300⟩] })
      (moving { freshMover 1 with failedAt := some 0x1000 } (work (.deposit 7 0x1000 300) .moving)))
    (t.line 7).f = 900 ∧ (t.line 7).w = 1600 ∧ resultOf 1 t = some ⟨.hostFault, 1600, 0x1000⟩ ∧ t.mover 0 = none := by
  decide +kernel
/-- R25's example. -/
theorem test_blocks_needed : blocksNeeded 336000 2 = 657 ∧ blocksNeeded 16777216 16 = 262144 ∧ blocksNeeded 1 1 = 1 := by
  decide
/-- R27's example: nine free extents of 1,000 blocks do not hold 8,500 in eight. -/
theorem test_gather_limit : allocate 8500 ((List.range 9).map fun i => ⟨2000 * i, 1000⟩) = none := by decide +kernel
/-- R30's example: position 2,700 of a line of 3 channels and C = 1,000. -/
theorem test_mapping : storeAddr [⟨40, 2⟩, ⟨900, 1⟩]
    (logicalByte { Line.freeLine with channels := 3, cap := 1000 } 2700 0) = 3686608 := by decide +kernel
/-- R121's examples. -/
theorem test_rounding : roundGain 8192 = 1 ∧ roundGain (-8192) = -1 ∧ roundGain 8191 = 0 ∧
    mixOutput [(-16384, [-2147483648])] = ([2147483647], 1) := by decide
/-- R82, R83: the commit, the walk to the window end W has reached. -/
theorem test_commit : ((after (.commit 0) stored480).line 7).w = 2080 ∧
    ((after (.commit 0) stored480).line 7).park = [⟨3, 2081⟩] ∧ phaseOf 2 (after (.commit 0) stored480) = some .ready ∧
    resultOf 1 (after (.commit 0) stored480) = some ⟨.ok, 2080, 480⟩ := by decide +kernel
/-- R91 to R93: a window below O′ is GONE with the bound, a later one parks, one above W without wait is NOT_READY. -/
theorem test_tap_start :
    resultOf 1 (after (.tap 2) (work (.tap 7 0 480 0 true 599 0) .waiting)) = some ⟨.gone, 600, 1⟩ ∧
    ((after (.tap 2) (work (.tap 7 0 480 9 false 479 0) .waiting)).line 7).park = [⟨1, 1601⟩] ∧
    resultOf 1 (after (.tap 2) (work (.tap 7 0 480 0 false 479 0) .waiting)) = some ⟨.notReady, 1600, 0⟩ ∧
    phaseOf 1 (after (.tap 2) (work (.tap 7 0 480 0 false 480 0) .waiting)) = some .ready := by decide +kernel
/-- R75, R91, R112: a line that is not OPEN. -/
theorem test_no_line : resultOf 1 (after (.deposit 2) (work (.deposit 9 0 1) .waiting)) = some ⟨.noLine, 0, 0⟩ ∧
    resultOf 1 (after (.skip 2) (work (.skip 7 1001) .waiting)) = some ⟨.tooLong, 1600, 1000⟩ ∧
    resultOf 1 (after (.mix 2) (work (.mix none 0 1 0 [⟨9, true, 0, 0⟩]) .waiting)) = some ⟨.noLine, 0, 1⟩ := by
  decide +kernel
/-- R113: tap 2 of the MIX ends one frame above W and parks it, its deadline running. -/
theorem test_mix_parks : ((after (.mixLineVisit 1) (mixAt (.place 1))).line 7).park = [⟨1, 1601⟩] ∧
    (after (.mixLineVisit 1) (mixAt (.place 1))).parkTimer = [(1, 100)] ∧
    phaseOf 1 (after (.mixLineVisit 1) (mixAt (.place 1))) = some .parked := by decide +kernel
/-- R119, 7.7: a self-feeding MIX counts its own frames: its window from 1,120 stands, one from 1,000 does not. -/
theorem test_mix_grant : ((after (.mixLineVisit 1) (mixGranted 0)).line 7).pins = [⟨1, 1120, 1601⟩] ∧
    phaseOf 1 (after (.mixLineVisit 1) (mixGranted 0)) = some .moving ∧
    resultOf 1 (after (.mixLineVisit 1) ((mixGranted 0).modCtx 1 fun o => { o with starts := [1000, 1121] })) =
      some ⟨.gone, 1080, 769⟩ := by decide +kernel
/-- R123: the end of moving at the one source line, then the commit at the destination. -/
theorem test_mix_end : resultOf 1 (after (.commit 0) (after (.mixEndOfMoving 0) (mixEnding none))) =
    some ⟨.ok, 2080, 0⟩ := by decide +kernel
/-- R104, R106: an OK tap, and one the moving writer has overtaken. -/
theorem test_tap_end : resultOf 1 (after (.tapEndOfMoving 0) tapRead) = some ⟨.ok, 1511, 1⟩ ∧
    resultOf 1 (after (.tapEndOfMoving 0) (onLine (fun l => { l with w := 2600 }) tapRead)) =
      some ⟨.overtaken, 1511, 1⟩ := by decide +kernel
/-- R96: EXPIRED with the line's W. -/
theorem test_expiry : resultOf 1 (after (.parkDeadlineExpiry 1) { parked with now := 100 }) =
      some ⟨.expired, 1600, 0⟩ ∧ after (.parkDeadlineExpiry 1) { parked with now := 99 } = { parked with now := 99 } := by
  decide +kernel
/-- R127 and R128, R129: a line opened; a close with a moving writer: the others end ABORTED, and the line drains when the
writer commits. -/
theorem test_open_and_close : ((after .openLine (control (.openLine 9 1 .guarded ⟨false, 0⟩ 1025))).line 9).extents =
      [⟨2, 2⟩] ∧
    resultOf 1 (after .closeLine closing) = some ⟨.aborted, 0, 0⟩ ∧
    resultOf 3 (after .closeLine closing) = some ⟨.aborted, 0, 0⟩ ∧
    ((after .closeLine closing).line 7).state = .closing ∧
    resultOf 0 (after (.commit 0) (moving { freshMover 2 with written := 3840 } (after .closeLine closing))) =
      some ⟨.ok, 2080, 2⟩ := by decide +kernel
/-- R132, R15: the events a line waits for. -/
theorem test_line_events : (after (.lineDrainComplete 7) drainedLine).line 7 = Line.freeLine ∧
    resultOf 0 (after (.setLineHeldComplete 7) heldLine) = some ⟨.ok, 1600, 0⟩ ∧
    ((after .setLine (control (.setLine 7 .guarded ⟨true, 0⟩))).line 7).policy = .guarded := by decide +kernel
/-- R136 to R138: a line report is handed over and the query is OK with W and the state code. -/
theorem test_query : resultOf 0 (after (.reportWrite 0) (after .moverGrant queried)) = some ⟨.ok, 1600, 1⟩ ∧
    (after (.reportWrite 0) (after .moverGrant queried)).host.writeQ.map (fun x => (x.addr, x.bytes.length)) =
      [(0x40, 128)] ∧
    resultOf 0 (after (.reportWrite 0) (after .moverGrant (after .queryStore (control (.queryStore 0x40))))) =
      some ⟨.ok, 0, 262142⟩ := by decide +kernel
/-- R58 to R61, R142, R143. -/
theorem test_ring_records : (after .createRing (control (.createRing 3 4 3 32 0 64))).ring 3 =
      { ring 64 3 32 [] with } ∧
    ((after .pauseRing (control (.pauseRing 2))).ring 2).state = .paused ∧
    resultOf 0 (after .resumeRing (control (.resumeRing 2))) = some ⟨.ringBusy, 0, 0⟩ ∧
    resultOf 1 (after .deleteRing deleting) = some ⟨.aborted, 0, 0⟩ ∧
    ((after .deleteRing deleting).ring 2).state = .draining ∧
    ((after (.ringDrainComplete 2) (onRing 2 { base.ring 2 with state := .draining } base)).ring 2).state = .disabled ∧
    ((after .createResponse (control (.createResponse 1 4 1 true 0 64))).respRing 1).size = 16 ∧
    resultOf 0 (after .deleteResponse (control (.deleteResponse 1))) = some ⟨.ringBusy, 0, 0⟩ := by decide +kernel
/-- R70, R146: the item's bytes and the indices. -/
theorem test_item_write : (after .itemWrite itemReady).host.writeQ = [⟨.item 0, 0x20000,
      [0x31, 0x0A, 0, 0x82, 0, 0, 0x20, 8, 0, 0, 0, 0, 0xE0, 1, 0, 0]⟩] ∧
    ((after .itemWrite itemReady).respRing 0).unreleased = 16 ∧ (after .itemWrite itemReady).ctx 1 = none := by
  decide +kernel
/-- R148 to R150: a release beyond the unreleased count faults the ring. -/
theorem test_release : ((after (.releaseWrite 0 1) written).respRing 0).unreleased = 0 ∧
    ((after (.releaseWrite 0 2) written).respRing 0).state = .faulted ∧
    ((after (.releaseWrite 0 16) written).ring 2).stop = some .responseFault := by decide +kernel
/-- R153, R162: the interrupt of a moderation time, and the message a cleared mask sends. -/
theorem test_interrupts : ((after (.moderationTimeExpiry 0) unsignalled).respRing 0).unsignalled = 0 ∧
    (after (.messageConfiguration (.mask 0 false)) messaging).host.writeQ =
      [⟨.message 0, 0xFEE00000, [0x41, 0, 0, 0]⟩] := by decide +kernel
/-- R43, R51: a post index of S stops the ring. -/
theorem test_post : ((after (.postWrite 2 15) base).ring 2).post = 15 ∧
    ((after (.postWrite 2 16) base).ring 2).stop = some .badPost ∧
    (after (.postWrite 2 16) base).resp.posts = [⟨0, .ringStopped 2⟩] := by decide +kernel
/-- R47: a MIX of two slots with two posted reads entry 0 next; with one posted the ring's held mark is set. -/
theorem test_fetch : ((after (.hostReadComplete 0 (mixBytes.take 64)) fetching).host.reads.map HostRead.addr) =
      [0x200000] ∧
    ((after (.hostReadComplete 0 (mixBytes.take 64)) (onRing 2 { fetching.ring 2 with post := 0 } fetching)).ring
      2).held = some 0 ∧
    ((after (.hostReadError 0) fetching).ring 2).stop = some .fetchFault := by decide +kernel
/-- R22, R37: an access refused in FAULT; a forced refresh. -/
theorem test_store : resultOf 1 (after .storeAccessStart (onStoreOf carrying { carrying.store with state := .fault })) =
      some ⟨.storeFault, 0, 0⟩ ∧
    ((after .forcedRefresh (onStore { base.store with debt := 8 })).store.forced) = 1 ∧
    after .ordinaryRefresh (onStore { base.store with debt := 8 }) = onStore { base.store with debt := 8 } := by
  decide +kernel
/-- R165, R171: ENABLE held through calibration, then the rings run; a bad size is a configuration error. -/
theorem test_enable : ((after (.calibrationComplete true) (after (.enableSet 0) configured)).ring 0).state = .running ∧
    ((after (.calibrationComplete true) (after (.enableSet 0) configured)).respRing 0).size = 8192 ∧
    (after (.enableSet 0) State.reset).host.configError = true ∧
    statusWord (after (.enableClear 0) base) = 0x00013004#32 := by decide +kernel
/-- R176, R177: QUIET, and the wake by a CONTROL write. -/
theorem test_quiesce : quiet.store.power = .selfRefresh ∧ isQuiet quiet = true ∧
    (after .selfRefreshExitEnd woken).store.power = .active := by decide +kernel
/-- R179: a transfer across the top of the host's address space is two requests. -/
theorem test_wrap : splitAddr 0xFFFFFFFFFFFFFFF0 32 = [(0xFFFFFFFFFFFFFFF0, 16), (0, 16)] := by decide
/-- R48, R47: the second slot of a stopped ring's record is read, and the record is dropped when that read completes. -/
theorem test_fetch_stopped :
    ((after (.hostReadComplete 0 (mixBytes.take 64)) stoppedFetch).host.reads.map HostRead.addr) = [0x200000] ∧
    (after (.hostReadComplete 1 (mixBytes.drop 64)) (after (.hostReadComplete 0 (mixBytes.take 64)) stoppedFetch)).ctx 1 =
      none ∧
    phaseOf 1 (after (.hostReadComplete 1 (mixBytes.drop 64)) (after (.hostReadComplete 0 (mixBytes.take 64)) fetching)) =
      some .waiting := by decide +kernel
/-- R160: an answer 50,001 microseconds after the issue finds the read failed; one at 50,000 does not. -/
theorem test_late_read :
    ((after (.hostReadComplete 0 (mixBytes.take 64)) { fetching with now := 50001 }).ring 2).stop = some .fetchFault ∧
    ((after (.hostReadComplete 0 (mixBytes.take 64)) { fetching with now := 50000 }).ring 2).state = .running := by
  decide +kernel
/-- R161: the freed place is the waiting item's, the next one the message's behind it. -/
theorem test_item_waits : ((after .itemWrite (after .hostWriteIssue itemWaits)).host.writeQ.map HostWrite.kind).drop 63 =
      [.item 0] ∧
    (after .hostWriteIssue (after .itemWrite (after .hostWriteIssue itemWaits))).host.waiters = [] := by decide +kernel
/-- R15, R77, R116: a commit with a held change, a writer behind it and a MIX parked. -/
theorem test_commit_next : resultOf 0 (after (.commit 0) storedNext) = some ⟨.ok, 2080, 0⟩ ∧
    phaseOf 4 (after (.commit 0) storedNext) = some .ready ∧ phaseOf 3 (after (.commit 0) storedNext) = some .passing ∧
    ((after (.commit 0) storedNext).line 7).policy = .guarded := by decide +kernel
/-- R6, R132: the events that let go of a CLOSING line leave it FREE and its CLOSE_LINE OK. -/
theorem test_drains : resultOf 0 (after (.tapEndOfMoving 0) (closes tapRead)) = some ⟨.ok, 1600, 0⟩ ∧
    resultOf 0 (after (.parkDeadlineExpiry 1) (closes { parked with now := 100 })) = some ⟨.ok, 1600, 0⟩ ∧
    (after (.writerAbandoned 0) (closes failed480)).line 7 = Line.freeLine := by decide +kernel
/-- R119: a MIX's grant makes its first re-check visit. -/
theorem test_mix_first_visit : ((after .moverGrant mixReady).line 7).pins = [⟨1, 1120, 1601⟩] ∧
    phaseOf 1 (after .moverGrant mixReady) = some .moving := by decide +kernel
/-- R102's example: a mask of 0x25 on 6 channels packs channels 0, 2 and 5. -/
theorem test_packing : tapOutput { Line.freeLine with channels := 6 } 0x25 ((List.range 24).map (BitVec.ofNat 8)) =
    [0, 1, 2, 3, 8, 9, 10, 11, 20, 21, 22, 23] := by decide +kernel
/-- R149, R152, R162: a fault of ring 1 frees its contexts, clears its notices, sends its interrupt, and its notice goes
ahead of the stop it causes. -/
theorem test_response_fault : (after (.releaseWrite 1 16) faulting).resp.posts =
      [⟨0, .respFaulted 1⟩, ⟨0, .ringStopped 2⟩] ∧
    (after (.releaseWrite 1 16) faulting).resp.faultSlots.get 1 = some ⟨2, 16, 0⟩ ∧
    (after (.releaseWrite 1 16) faulting).ctx 1 = none ∧
    ((after (.releaseWrite 1 16) faulting).line 7).lapPending = false ∧
    (after (.releaseWrite 1 16) faulting).host.writeQ = [⟨.message 1, 0, [0, 0, 0, 0]⟩] := by decide +kernel
/-- R79, R80, R101: a SKIP's second burst goes on at position 1,664, frame index 664; a READY TAP's first is at its window
start, position 600. -/
theorem test_next_burst :
    (after (.storeAccessComplete []) (after .storeAccessStart carrying)).store.waiting =
      [⟨some 0, 0, 5312, 512, some (List.replicate 512 0)⟩] ∧
    (after .moverGrant granting).store.waiting = [⟨some 0, 0, 4800, 512, none⟩] := by decide +kernel
/-- R159, R79: a read that comes leaves 3 outstanding, so the fifth transfer is asked for, and the bytes go to frame 600. -/
theorem test_next_transfer :
    (deposited.host.reads.map fun x => (x.addr, x.len)) = [(0x1200, 512), (0x1400, 512), (0x1600, 512), (0x1800, 512)] ∧
    deposited.store.waiting = [⟨some 0, 0, 4800, 512, some ((List.range 512).map (BitVec.ofNat 8))⟩] := by decide +kernel
/-- R161: permission returns: the held read is issued. -/
theorem test_permission : ((after (.requestPermissionChange true) heldRead).link.drop heldRead.link.length) =
      [.read 0x2003C0 64] ∧ (after (.requestPermissionChange true) heldRead).host.writeQ.length = 1 := by decide +kernel
/-- R129: the items of a close, the parked TAP's before the queued writer's. R143: a deleted ring's LAP notice. -/
theorem test_close_order : (after .closeLine closing).resp.posts = [⟨0, .completion 1⟩, ⟨0, .completion 3⟩] ∧
    (after .deleteResponse deletingResp).resp.posts = [⟨0, .lap 9⟩, ⟨0, .completion 0⟩] ∧
    ((after .deleteResponse deletingResp).line 7).lapPending = false ∧
    resultOf 0 (after .deleteResponse deletingResp) = some ⟨.ok, 0, 3⟩ := by decide +kernel
/-- R175: an idle period begins within the event that leaves the part idle, and ends within the one that does not. -/
theorem test_idle_period : (after (.idleDelayWrite 200) base).host.quiesce = .idling 200 (postIndices base) ∧
    (after (.postWrite 2 1) idling).host.quiesce = .awake := by decide +kernel

end Sys2Proof.Tests
end

/-! SUPPORT. The quiescence state under the wake and the quiescence rule, and how "only these blocks change" composes. -/

namespace Sys2Proof.Machine

variable (s : State)

/-- A wake leaves an AWAKE or IDLING part (R177). -/
@[simp] theorem isQuiet_quietWake : isQuiet (quietWake s) = false := by
  cases h : s.host.quiesce <;> simp [quietWake, isQuiet, h]

/-- The quiescence rule neither makes a part QUIET nor ends QUIET (R175). -/
@[simp] theorem isQuiet_settleIdle : isQuiet (settleIdle s) = isQuiet s := by
  cases h : s.host.quiesce with
  | awake => simp only [settleIdle, h]; split <;> simp [isQuiet, h]
  | idling d p => simp only [settleIdle, h]; split <;> simp [isQuiet, h]
  | quiet p => simp [settleIdle, h]

/-- The bytes of the store outlast a wake (R39). -/
@[simp] theorem quietWake_cells : (quietWake s).store.cells = s.store.cells := by
  cases h : s.host.quiesce with
  | awake => simp [quietWake, h]
  | idling d p => simp [quietWake, h]
  | quiet p => simp only [quietWake, beginExit, h]; split <;> simp

/-- Of the Host Port a wake changes the quiescence state only (R177). -/
theorem quietWake_host : (quietWake s).host = { s.host with quiesce := (quietWake s).host.quiesce } := by
  unfold quietWake
  split
  · simp
  · rfl
  · rfl

theorem onlyIn_refl (bs : List Block) : OnlyIn bs s s :=
  ⟨rfl, rfl, fun b _ => by cases b <;> simp [Same]⟩

variable {s}

theorem Same.trans {b : Block} {u t : State} (h1 : Same b s u) (h2 : Same b u t) : Same b s t := by
  cases b
  case hostPort =>
    obtain ⟨hhost, hlink⟩ := h1
    obtain ⟨hhost', hlink'⟩ := h2
    refine ⟨?_, hlink'.trans hlink⟩
    rw [← hhost, ← hhost']
  all_goals exact Eq.trans h2 h1

theorem OnlyIn.trans {bs : List Block} {u t : State} (h1 : OnlyIn bs s u) (h2 : OnlyIn bs u t) : OnlyIn bs s t := by
  obtain ⟨hpend, hnow, hsame⟩ := h1
  obtain ⟨hpend', hnow', hsame'⟩ := h2
  exact ⟨hpend'.trans hpend, hnow'.trans hnow, fun b hb => (hsame b hb).trans (hsame' b hb)⟩

theorem OnlyIn.mono {as bs : List Block} {t : State} (hsub : as ⊆ bs) (h : OnlyIn as s t) : OnlyIn bs s t := by
  obtain ⟨hpend, hnow, hsame⟩ := h
  exact ⟨hpend, hnow, fun b hb => hsame b fun ha => hb (hsub ha)⟩

variable (s)

theorem onlyIn_quietWake : OnlyIn [.storeController] s (quietWake s) := by
  refine ⟨by simp, by simp, fun b hb => ?_⟩
  cases b
  case hostPort => exact ⟨by rw [quietWake_host], by simp⟩
  case storeController => simp at hb
  all_goals simp [Same]

theorem onlyIn_setRing (k : RingId) (x : CmdRing) : OnlyIn [.ringFetcher] s (s.setRing k x) := by
  refine ⟨rfl, rfl, fun b hb => ?_⟩
  cases b
  case ringFetcher => simp at hb
  all_goals simp [Same]

theorem onlyIn_stopRing (k : RingId) (why : StopReason) :
    OnlyIn [.ringFetcher, .responseUnit] s (stopRing k why s) := by
  refine ⟨by simp, by simp, fun b hb => ?_⟩
  cases b
  case ringFetcher => simp at hb
  case responseUnit => simp at hb
  all_goals simp [Same]

end Sys2Proof.Machine

/-! PROOF. A write to POST k: the wake it may be, and the post index recorded, the stop, or nothing (R43, R51, R52,
R177). -/

namespace Sys2Proof.Machine

variable (s : State) (k : RingId)

/-- The entry of a RUNNING or PAUSED ring that stops, whole: its notice is raised where it was pending already or
response ring 0 is ACTIVE (R51, R52). -/
theorem stopRing_ring_same (why : StopReason) (h : (s.ring k).state = .running ∨ (s.ring k).state = .paused) :
    (stopRing k why s).ring k =
      { s.ring k with
        state := .stopped
        stop := some why
        notice :=
          if (s.ring k).notice.isSome = true ∨ (s.respRing 0).state = .active then some (why, (s.ring k).take)
          else none } := by
  simp only [stopRing, h, if_true]
  by_cases hn : (s.ring k).notice.isSome = true
  · simp [hn]
  · by_cases ha : (s.respRing 0).state = .active
    · simp [hn, ha]
    · simp_all

/-- A stop posts a RING_STOPPED notice unless one is pending already or response ring 0 is not ACTIVE (R52). -/
theorem stopRing_posts (why : StopReason) (h : (s.ring k).state = .running ∨ (s.ring k).state = .paused) :
    (stopRing k why s).resp.posts = s.resp.posts ++
      (if (s.ring k).notice = none ∧ (s.respRing 0).state = .active then [⟨0, .ringStopped k⟩] else []) := by
  simp only [stopRing, h, if_true]
  by_cases hn : (s.ring k).notice.isSome = true
  · simp [hn, Option.isSome_iff_ne_none.mp hn]
  · by_cases ha : (s.respRing 0).state = .active
    · simp [ha, post_posts, Option.not_isSome_iff_eq_none.mp hn]
    · simp [hn, ha]

/-- The state a write to POST k acts on: a RUNNING ring's write has woken a QUIET part (R177). -/
def postWoken : State := if (s.ring k).state = .running then quietWake s else s

@[simp] theorem postWoken_fetcher : (postWoken s k).fetcher = s.fetcher := by unfold postWoken; split <;> simp
@[simp] theorem postWoken_resp : (postWoken s k).resp = s.resp := by unfold postWoken; split <;> simp
@[simp] theorem postWoken_cells : (postWoken s k).store.cells = s.store.cells := by unfold postWoken; split <;> simp
@[simp] theorem postWoken_ring (j : RingId) : (postWoken s k).ring j = s.ring j := by simp [State.ring]
@[simp] theorem postWoken_respRing (r : RespId) : (postWoken s k).respRing r = s.respRing r := by simp [State.respRing]

theorem isQuiet_postWoken (h : (s.ring k).state = .running) : isQuiet (postWoken s k) = false := by
  simp [postWoken, h]

theorem onlyIn_postWoken : OnlyIn [.storeController] s (postWoken s k) := by
  unfold postWoken
  split
  · exact onlyIn_quietWake s
  · exact onlyIn_refl s _

variable {s k}

/-- Below S the index is recorded (R43). -/
theorem writePost_below {v : Nat} (h : (s.ring k).state = .running ∨ (s.ring k).state = .paused)
    (hv : v < (s.ring k).size) : writePost k v s = recordPost k v (postWoken s k) := by
  rw [← postWoken_ring s k k] at h hv
  exact (if_pos h).trans (if_pos hv)

/-- At S or above the ring stops with BAD_POST (R43). -/
theorem writePost_above {v : Nat} (h : (s.ring k).state = .running ∨ (s.ring k).state = .paused)
    (hv : ¬ v < (s.ring k).size) : writePost k v s = stopRing k .badPost (postWoken s k) := by
  rw [← postWoken_ring s k k] at h hv
  exact (if_pos h).trans (if_neg hv)

/-- A ring that is neither RUNNING nor PAUSED ignores the write (R43). -/
theorem writePost_other {v : Nat} (h : ¬ ((s.ring k).state = .running ∨ (s.ring k).state = .paused)) :
    writePost k v s = postWoken s k := by
  rw [← postWoken_ring s k k] at h
  exact if_neg h

variable (s k)

/-- What every write to POST k leaves alone, whichever of the three it does. -/
theorem writePost_frame (v : Nat) :
    OnlyIn [.hostPort, .ringFetcher, .responseUnit, .storeController] s (writePost k v s) ∧
      (writePost k v s).store.cells = s.store.cells ∧ (∀ j, j ≠ k → (writePost k v s).ring j = s.ring j) ∧
      (writePost k v s).fetcher.fetch = s.fetcher.fetch ∧ (writePost k v s).resp.rings = s.resp.rings ∧
      isQuiet (writePost k v s) = isQuiet (postWoken s k) := by
  have hwake := (onlyIn_postWoken s k).mono
    (bs := [.hostPort, .ringFetcher, .responseUnit, .storeController]) (by simp)
  by_cases h : (s.ring k).state = .running ∨ (s.ring k).state = .paused
  · by_cases hv : v < (s.ring k).size
    · rw [writePost_below h hv]
      refine ⟨hwake.trans ((onlyIn_setRing _ k _).mono (by simp)), ?_, fun j hj => ?_, ?_, ?_, ?_⟩
        <;> simp [recordPost, isQuiet, *]
    · rw [writePost_above h hv]
      refine ⟨hwake.trans ((onlyIn_stopRing _ k _).mono (by simp)), ?_, fun j hj => ?_, ?_, ?_, ?_⟩
        <;> simp [stopRing_ring_other, isQuiet, *]
  · rw [writePost_other h]
    exact ⟨hwake, by simp, by simp, by simp, by simp, rfl⟩

/-- Settles O16: the frame is common to the three outcomes; the ring's entry and the post queues are those of the
recorded index, of the stop, or of a write ignored. -/
theorem postWrite : Obligations.PostWrite := by
  intro s k v hup
  obtain ⟨honly, hcells, hother, hfetch, hrings, hquiet⟩ := writePost_frame s k v.toNat
  refine ⟨settleIdle (writePost k v.toNat s), by simp [exec, execPostWrite, hup, took_eq],
    onlyIn_settleIdle s honly, by simpa using hcells, by simpa using hother, by simpa using hfetch,
    by simpa using hrings, fun hrun => by rw [isQuiet_settleIdle, hquiet, isQuiet_postWoken s k hrun], ?_⟩
  simp only [settleIdle_ring, settleIdle_frame]
  split
  next h =>
    split
    next hv =>
      rw [writePost_below h hv]
      simp [recordPost]
    next hv =>
      rw [writePost_above h hv, stopRing_ring_same _ k _ (by simpa using h), stopRing_posts _ k _ (by simpa using h)]
      simp
  next h =>
    rw [writePost_other h]
    simp

end Sys2Proof.Machine

/-! PROOF. The fetch arbiter: which rings are eligible, the order in which a level's search visits the work rings, and
the ring granted (R45, R46). -/

namespace Sys2Proof.Machine

variable (s : State) (k : RingId)

/-! ### Eligibility (R45) -/

/-- The contexts a ring holds are its window's and the one reserved for a fetch of it (R54). -/
theorem heldContexts_eq : heldContexts k s =
    (s.ring k).window.length + (if s.fetcher.fetch.any (fun f => decide (f.ring = k)) = true then 1 else 0) := by
  unfold heldContexts
  cases s.fetcher.fetch <;> simp

/-- A context can be had exactly when one of the ring's class is free: the control context for ring 0, a work context
for the others (R53). -/
theorem freeContext_isSome_iff : (freeContext k s).isSome = true ↔ ∃ c, s.ctx c = none ∧ (c = 0 ↔ k = 0) := by
  unfold freeContext
  by_cases hk : k = 0
  · simp only [hk, if_true, iff_true, exists_eq_right, Option.isNone_iff_eq_none]
    split <;> simp_all
  · simp only [hk, if_false, iff_false, List.find?_isSome, Bool.and_eq_true, decide_eq_true_eq,
      Option.isNone_iff_eq_none]
    exact ⟨fun ⟨c, _, hc, hfree⟩ => ⟨c, hfree, hc⟩, fun ⟨c, hfree, hc⟩ => ⟨c, List.mem_finRange c, hc, hfree⟩⟩

/-- The conditions of R45, one by one. -/
theorem eligible_iff : eligible s k = true ↔
    (s.ring k).state = .running ∧
      1 ≤ ((s.ring k).post + (s.ring k).size - (s.ring k).take) % (s.ring k).size ∧ (s.ring k).held = none ∧
      (s.ring k).window.length + (if s.fetcher.fetch.any (fun f => decide (f.ring = k)) = true then 1 else 0) <
        (s.ring k).windowSize ∧
      (∃ c, s.ctx c = none ∧ (c = 0 ↔ k = 0)) ∧ s.fetcher.fetch = none ∧ s.host.enable = .on ∧
      isQuiet s = false ∧ s.store.power ≠ .exiting := by
  rw [← heldContexts_eq, ← freeContext_isSome_iff]
  simp only [eligible, Bool.and_eq_true, decide_eq_true_eq, Bool.not_eq_true', Option.isNone_iff_eq_none, and_assoc]
  rfl

/-! ### The search of one level (R46) -/

/-- A work ring's place, from 0, in the search that counts upward from ring `last` and wraps from 15 to 1. -/
def searchPlace (last : Nat) (k : RingId) : Nat := (k.val + 14 + 14 * last) % 15

@[simp] theorem length_ringsAfter (last : Nat) : (ringsAfter last).length = 15 := by simp [ringsAfter]

theorem val_ringsAfter_getElem {last i : Nat} (hi : i < (ringsAfter last).length) :
    (ringsAfter last)[i].val = (last + i) % 15 + 1 := by
  simp only [ringsAfter, List.getElem_map, List.getElem_range, Fin.val_ofNat]
  omega

/-- The ring at place `i` of the search has that place. -/
theorem searchPlace_ringsAfter_getElem {last i : Nat} (hi : i < (ringsAfter last).length) :
    searchPlace last (ringsAfter last)[i] = i := by
  rw [searchPlace, val_ringsAfter_getElem hi]
  rw [length_ringsAfter] at hi
  omega

/-- Every work ring stands in the search, at its place. -/
theorem ringsAfter_searchPlace {last : Nat} {k : RingId} (hk : k ≠ 0) :
    ∃ h : searchPlace last k < (ringsAfter last).length, (ringsAfter last)[searchPlace last k] = k := by
  have hpos : 0 < k.val := Nat.pos_of_ne_zero fun h => hk (Fin.ext h)
  have hlt : k.val < 16 := k.isLt
  have hplace : searchPlace last k < (ringsAfter last).length := by rw [length_ringsAfter, searchPlace]; omega
  refine ⟨hplace, Fin.ext ?_⟩
  rw [val_ringsAfter_getElem hplace, searchPlace]
  omega

/-- A level's search grants nothing exactly when no work ring of that level is eligible. -/
theorem grantAtLevel_eq_none_iff (level : Fin 4) : grantAtLevel s level = none ↔
    ∀ j, j ≠ 0 → (s.ring j).prio = level.val → eligible s j = false := by
  simp only [grantAtLevel, List.find?_eq_none, Bool.and_eq_true, decide_eq_true_eq, not_and, Bool.not_eq_true]
  refine ⟨fun h j hj hprio => ?_, fun h j _ ⟨hj, hprio⟩ => h j hj hprio⟩
  obtain ⟨hlt, hget⟩ := ringsAfter_searchPlace (last := s.fetcher.lastGrant.get level) hj
  exact h j (hget ▸ List.getElem_mem hlt) ⟨hj, hprio⟩

/-- The ring a level's search grants is an eligible work ring of that level, and of these the first in the search. -/
theorem grantAtLevel_eq_some {level : Fin 4} {k : RingId} (h : grantAtLevel s level = some k) :
    k ≠ 0 ∧ (s.ring k).prio = level.val ∧ eligible s k = true ∧
      ∀ j, j ≠ 0 → (s.ring j).prio = level.val → eligible s j = true →
        searchPlace (s.fetcher.lastGrant.get level) k ≤ searchPlace (s.fetcher.lastGrant.get level) j := by
  obtain ⟨hk, i, hi, rfl, hbefore⟩ := List.find?_eq_some_iff_getElem.mp h
  simp only [Bool.and_eq_true, decide_eq_true_eq] at hk
  obtain ⟨⟨hk0, hprio⟩, helig⟩ := hk
  refine ⟨hk0, hprio, helig, fun j hj hjprio hjelig => ?_⟩
  rw [searchPlace_ringsAfter_getElem hi]
  obtain ⟨hlt, hget⟩ := ringsAfter_searchPlace (last := s.fetcher.lastGrant.get level) hj
  by_contra hless
  have := hbefore _ (Nat.lt_of_not_le hless)
  simp [hget, hj, hjprio, hjelig] at this

/-! ### The choice among the levels (R46) -/

/-- The levels, highest first. -/
def levelsDescending : List (Fin 4) := [3, 2, 1, 0]

theorem mem_levelsDescending (level : Fin 4) : level ∈ levelsDescending := by
  revert level; decide

/-- Ring 0 is granted whenever it is eligible, and no other ring then is. -/
theorem grantedRing_of_control (h : eligible s 0 = true) : grantedRing s = some (0, none) := if_pos h

/-- Without ring 0 the levels are searched from the highest. -/
theorem grantedRing_of_work (h : eligible s 0 = false) : grantedRing s =
    levelsDescending.findSome? fun level => (grantAtLevel s level).map fun k => (k, some level) := by
  simp [grantedRing, h, levelsDescending]

/-- A search along a descending list found nothing at any greater element. -/
theorem findSome?_descending {α : Type} {f : Fin 4 → Option α} {x : α} {l : List (Fin 4)} (hl : l.Pairwise (· > ·))
    (h : l.findSome? f = some x) : ∃ p, f p = some x ∧ ∀ q ∈ l, p < q → f q = none := by
  obtain ⟨before, p, after, rfl, hp, hnone⟩ := List.findSome?_eq_some_iff.mp h
  refine ⟨p, hp, fun q hq hlt => ?_⟩
  obtain ⟨_, hafter, _⟩ := List.pairwise_append.mp hl
  rcases List.mem_append.mp hq with hmem | hmem
  · exact hnone q hmem
  · rcases List.mem_cons.mp hmem with rfl | hmem
    · exact absurd hlt (lt_irrefl _)
    · exact absurd hlt (lt_asymm (List.rel_of_pairwise_cons hafter hmem))

/-- A work ring's grant is its level's search, and every higher level's search found nothing. -/
theorem grantedRing_work_some {k : RingId} {level : Option (Fin 4)} (h0 : eligible s 0 = false)
    (h : grantedRing s = some (k, level)) :
    ∃ p, level = some p ∧ grantAtLevel s p = some k ∧ ∀ q, p < q → grantAtLevel s q = none := by
  rw [grantedRing_of_work s h0] at h
  obtain ⟨p, hp, habove⟩ := findSome?_descending (by decide) h
  simp only [Option.map_eq_some_iff, Prod.mk.injEq] at hp
  obtain ⟨j, hj, rfl, rfl⟩ := hp
  exact ⟨p, rfl, hj, fun q hlt => by simpa using habove q (mem_levelsDescending q) hlt⟩

/-- No ring is granted exactly when none is eligible, where every work ring has one of the four levels. -/
theorem grantedRing_eq_none_iff (hwork : ∀ k, k ≠ 0 → (s.ring k).prio ≤ 3) :
    grantedRing s = none ↔ ∀ k, eligible s k = false := by
  by_cases h0 : eligible s 0 = true
  · rw [grantedRing_of_control s h0]
    exact ⟨fun h => by simp at h, fun h => by simp [h 0] at h0⟩
  · have h0' : eligible s 0 = false := by simpa using h0
    rw [grantedRing_of_work s h0']
    simp only [List.findSome?_eq_none_iff, Option.map_eq_none_iff, grantAtLevel_eq_none_iff]
    refine ⟨fun h k => ?_, fun h _ _ j _ _ => h j⟩
    by_cases hk : k = 0
    · rw [hk, h0']
    · exact h ⟨(s.ring k).prio, Nat.lt_succ_of_le (hwork k hk)⟩ (mem_levelsDescending _) k hk rfl

/-- Settles O28: eligibility condition by condition; the choice by whether ring 0 is eligible, else by the level whose
search granted. -/
theorem fetchArbiter : Obligations.FetchArbiter := by
  refine ⟨eligible_iff, fun s _ hwork => ⟨grantedRing_eq_none_iff s hwork, fun k level hgrant => ?_⟩⟩
  cases h0 : eligible s 0 with
  | true =>
    rw [grantedRing_of_control s h0] at hgrant
    obtain ⟨rfl, rfl⟩ : (0 : RingId) = k ∧ none = level := by simpa using hgrant
    simp [h0]
  | false =>
    obtain ⟨p, rfl, hk, habove⟩ := grantedRing_work_some s h0 hgrant
    obtain ⟨hk0, hprio, helig, hfirst⟩ := grantAtLevel_eq_some s hk
    refine ⟨helig, by simp, by simp [hk0], fun q hq => ?_⟩
    obtain rfl : p = q := Option.some.inj hq
    refine ⟨hprio, fun j hj hjelig => ⟨?_, fun hjprio => hfirst j hj hjprio hjelig⟩⟩
    by_contra hlt
    have hnone := habove ⟨(s.ring j).prio, Nat.lt_succ_of_le (hwork j hj)⟩ (Fin.lt_def.mpr (Nat.lt_of_not_le hlt))
    simp [(grantAtLevel_eq_none_iff s _).mp hnone j hj rfl] at hjelig

end Sys2Proof.Machine

/-! PROOF. The bounds of a line: O and O′ are the overtake bound with no frames and with the active writer's frames
counted, and the guard check compares the pins with the overwrite range below O′ (R4, R12, R104). -/

namespace Sys2Proof.Machine

variable (l : Line)

/-! ### O, O′ and the overtake bound (R4, R104) -/

/-- The bound as R104 words it: the greatest of F, 0 and what the wrap has left, taken as 0 below C. -/
theorem overtakeBound_eq_max (k : Nat) :
    overtakeBound l k = max (max l.f 0) (if l.cap > l.w + k then 0 else l.w + k - l.cap) := by
  rw [overtakeBound, Nat.max_zero]
  split
  next h => rw [Nat.sub_eq_zero_of_le (Nat.le_of_lt h)]
  next => rfl

theorem overtakeBound_mono {j k : Nat} (h : j ≤ k) : overtakeBound l j ≤ overtakeBound l k := by
  unfold overtakeBound; omega

/-- Frames that do not pass C overwrite nothing. -/
theorem overtakeBound_of_le_cap {k : Nat} (h : l.w + k ≤ l.cap) : overtakeBound l k = overtakeBound l 0 := by
  unfold overtakeBound; omega

/-- The `k` frames from W up fall on positions below the bound that counts them. -/
theorem not_overwritten_of_overtakeBound_le {k q : Nat} (h : overtakeBound l k ≤ q) : ¬(q + l.cap < l.w + k) := by
  unfold overtakeBound at h; omega

theorem oldest_eq_overtakeBound : oldest l = overtakeBound l 0 := rfl

theorem oldestCounting_eq_overtakeBound : oldestCounting l = overtakeBound l (activeFrames l) := rfl

theorem oldest_le_overtakeBound (k : Nat) : oldest l ≤ overtakeBound l k := overtakeBound_mono l (Nat.zero_le k)

/-! ### What a commit and an abandoned write leave as O (R3, R4) -/

/-- A commit of `k` frames leaves the bound that counted them as O. -/
theorem oldest_of_committed (k : Nat) (xs : List Writer) :
    oldest { l with w := l.w + k, writers := xs } = overtakeBound l k := rfl

/-- The floor an abandoned write of `k` frames leaves takes O up to the bound that counted them. -/
theorem oldest_of_abandoned (k : Nat) (xs : List Writer) :
    oldest { l with f := abandonedFloor l k, writers := xs } = overtakeBound l k := by
  simp only [oldest, abandonedFloor, overtakeBound]
  omega

/-! ### The active writer counted once it is MOVING (R104) -/

theorem activeFrames_of_cons {x : Writer} {xs : List Writer} (h : l.writers = x :: xs) :
    activeFrames l = x.frames := by
  simp [activeFrames, h]

/-- The moving writer's frames are none, or all, of the active writer's. -/
theorem movingFrames_le_activeFrames (s : State) (n : LineId) : movingFrames n s ≤ activeFrames (s.line n) := by
  cases h : (s.line n).writers with
  | nil => simp [movingFrames, h]
  | cons x xs =>
    rw [activeFrames_of_cons _ h]
    simp only [movingFrames, h]
    split <;> omega

/-! ### The guard check (R12) -/

/-- Two ranges of positions share one exactly when each begins below the other's end and neither is empty. -/
theorem pinTouches_iff (x : Pin) : pinTouches l x = true ↔
    ∃ q, x.lo ≤ q ∧ q < x.hi ∧ l.w - l.cap ≤ q ∧ q + l.cap < l.w + activeFrames l := by
  simp only [pinTouches, Bool.and_eq_true, decide_eq_true_eq]
  constructor
  · rintro ⟨⟨⟨hlo, hhi⟩, hpin⟩, hrange⟩
    exact ⟨max x.lo (l.w - l.cap), by omega⟩
  · rintro ⟨q, hlo, hhi, hfrom, hto⟩
    omega

theorem guardPasses_iff : guardPasses l = true ↔
    ∀ x ∈ l.pins, ∀ q, x.lo ≤ q → q < x.hi → ¬(l.w - l.cap ≤ q ∧ q + l.cap < l.w + activeFrames l) := by
  simp only [guardPasses, Bool.not_eq_true', List.any_eq_false, pinTouches_iff, not_exists, not_and]

/-- An empty overwrite range touches no pin. -/
theorem guardPasses_of_le_cap (h : l.w + activeFrames l ≤ l.cap) : guardPasses l = true := by
  rw [guardPasses_iff]
  omega

/-- Settles O56: O, O′ and the overtake bound as one bound that grows with the frames it counts; the guard check by the
positions a pin and the overwrite range share. -/
theorem lineBounds : Obligations.LineBounds := by
  refine ⟨fun l => ⟨overtakeBound_eq_max l 0, oldest_le_overtakeBound l _, fun hnone => ?_, fun x xs hactive => ?_⟩,
    fun s n K hK => ?_, fun l M hM => ?_⟩
  · simp [oldestCounting_eq_overtakeBound, oldest_eq_overtakeBound, activeFrames, hnone]
  · rw [oldestCounting_eq_overtakeBound, activeFrames_of_cons l hactive]
    exact ⟨overtakeBound_eq_max l x.frames, overtakeBound_of_le_cap l, oldest_of_committed l x.frames xs,
      oldest_of_abandoned l x.frames xs, fun q => not_overwritten_of_overtakeBound_le l⟩
  · obtain rfl : K = movingFrames n s := hK
    exact ⟨overtakeBound_eq_max _ _, oldest_le_overtakeBound _ _,
      overtakeBound_mono _ (movingFrames_le_activeFrames s n)⟩
  · subst hM
    exact ⟨guardPasses_iff l, guardPasses_of_le_cap l⟩

end Sys2Proof.Machine

/-! PROOF. The free extent table as a set of blocks: a lawful table is the one lawful list of its blocks, allocation
takes blocks out of it and a return puts them back (R24 to R28). -/

namespace Sys2Proof.Machine

/-! ### Blocks -/

/-- Block `b` lies in extent `e`. -/
def Extent.Holds (e : Extent) (b : Nat) : Prop := e.start ≤ b ∧ b < e.start + e.count

/-- Block `b` lies in one of the extents. -/
def Covers (es : List Extent) (b : Nat) : Prop := ∃ e ∈ es, e.Holds b

/-- Two extents share no block, one ending before the other begins. -/
def Apart (d e : Extent) : Prop := d.start + d.count ≤ e.start ∨ e.start + e.count ≤ d.start

theorem Apart.symm {d e : Extent} (h : Apart d e) : Apart e d := Or.symm h

/-- Of two extents with blocks, being apart is sharing none. -/
theorem apart_iff {d e : Extent} (hd : 1 ≤ d.count) (he : 1 ≤ e.count) :
    Apart d e ↔ ∀ b, d.Holds b → ¬e.Holds b := by
  unfold Apart Extent.Holds
  constructor
  · intro h b; omega
  · intro h
    have h1 := h d.start
    have h2 := h e.start
    omega

@[simp] theorem not_covers_nil (b : Nat) : ¬Covers [] b := by simp [Covers]

@[simp] theorem covers_cons (e : Extent) (es : List Extent) (b : Nat) :
    Covers (e :: es) b ↔ e.Holds b ∨ Covers es b := by simp [Covers]

@[simp] theorem covers_append (ds es : List Extent) (b : Nat) : Covers (ds ++ es) b ↔ Covers ds b ∨ Covers es b := by
  simp [Covers, or_and_right, exists_or]

@[simp] theorem blocksOf_nil : blocksOf [] = 0 := rfl

@[simp] theorem blocksOf_cons (e : Extent) (es : List Extent) : blocksOf (e :: es) = e.count + blocksOf es := by
  simp [blocksOf]

@[simp] theorem blocksOf_append (ds es : List Extent) : blocksOf (ds ++ es) = blocksOf ds + blocksOf es := by
  simp [blocksOf]

theorem blocksOf_perm {ds es : List Extent} (h : ds.Perm es) : blocksOf ds = blocksOf es :=
  (h.map Extent.count).sum_nat

/-! ### Lawful tables -/

theorem freeTableOk_nil : FreeTableOk [] := by simp [FreeTableOk]

theorem freeTableOk_cons {e : Extent} {es : List Extent} :
    FreeTableOk (e :: es) ↔ 1 ≤ e.count ∧ (∀ d ∈ es, e.start + e.count < d.start) ∧ FreeTableOk es := by
  simp only [FreeTableOk, List.pairwise_cons, List.forall_mem_cons]
  tauto

/-- An extent begins above `lo` exactly when all its blocks lie above it. -/
theorem forall_start_iff {es : List Extent} (h : ∀ e ∈ es, 1 ≤ e.count) (lo : Nat) :
    (∀ e ∈ es, lo < e.start) ↔ ∀ b, Covers es b → lo < b := by
  constructor
  · rintro hs b ⟨e, he, hb, -⟩
    exact (hs e he).trans_le hb
  · intro hs e he
    exact hs _ ⟨e, he, le_rfl, by have := h e he; omega⟩

/-- The blocks of the rest of a lawful table are its blocks past its first extent. -/
theorem covers_tail_iff {e : Extent} {es : List Extent} (h : FreeTableOk (e :: es)) (b : Nat) :
    Covers es b ↔ Covers (e :: es) b ∧ e.start + e.count ≤ b := by
  obtain ⟨-, hlt, -⟩ := freeTableOk_cons.1 h
  simp only [covers_cons, Extent.Holds]
  constructor
  · rintro ⟨d, hd, hb⟩
    have := hlt d hd
    exact ⟨.inr ⟨d, hd, hb⟩, by unfold Extent.Holds at hb; omega⟩
  · rintro ⟨h | h, hb⟩
    · omega
    · exact h

/-- The first extent of a lawful table begins at its least block. -/
theorem start_le_of_covers {e : Extent} {es : List Extent} (h : FreeTableOk (e :: es)) {b : Nat}
    (hb : Covers (e :: es) b) : e.start ≤ b := by
  obtain ⟨-, hlt, -⟩ := freeTableOk_cons.1 h
  obtain ⟨d, hd, h1, -⟩ := hb
  rcases List.mem_cons.1 hd with rfl | hd
  · exact h1
  · have := hlt d hd; omega

/-- The block right behind the first extent of a lawful table is in none of its extents. -/
theorem not_covers_end {e : Extent} {es : List Extent} (h : FreeTableOk (e :: es)) :
    ¬Covers (e :: es) (e.start + e.count) := by
  obtain ⟨-, hlt, -⟩ := freeTableOk_cons.1 h
  rintro ⟨d, hd, h1, h2⟩
  rcases List.mem_cons.1 hd with rfl | hd
  · omega
  · have := hlt d hd; omega

/-- A lawful table is determined by its blocks. -/
theorem freeTable_ext {ds es : List Extent} (hd : FreeTableOk ds) (he : FreeTableOk es)
    (h : ∀ b, Covers ds b ↔ Covers es b) : ds = es := by
  induction ds generalizing es with
  | nil =>
    cases es with
    | nil => rfl
    | cons e es =>
      have := (freeTableOk_cons.1 he).1
      exact absurd ((h e.start).2 ⟨e, by simp, le_rfl, by omega⟩) (not_covers_nil _)
  | cons d ds ih =>
    cases es with
    | nil =>
      have := (freeTableOk_cons.1 hd).1
      exact absurd ((h d.start).1 ⟨d, by simp, le_rfl, by omega⟩) (not_covers_nil _)
    | cons e es =>
      have hcd := (freeTableOk_cons.1 hd).1
      have hce := (freeTableOk_cons.1 he).1
      have hle : e.start ≤ d.start :=
        start_le_of_covers he ((h _).1 ⟨d, by simp, le_rfl, by omega⟩)
      have hge : d.start ≤ e.start :=
        start_le_of_covers hd ((h _).2 ⟨e, by simp, le_rfl, by omega⟩)
      have hstart : d.start = e.start := by omega
      have hend : d.count = e.count := by
        rcases Nat.lt_trichotomy d.count e.count with hlt | heq | hgt
        · exact absurd ((h _).2 ⟨e, by simp, by omega, by omega⟩) (not_covers_end hd)
        · exact heq
        · exact absurd ((h _).1 ⟨d, by simp, by omega, by omega⟩) (not_covers_end he)
      have hhead : d = e := by
        cases d; cases e; simp_all
      subst hhead
      rw [ih (freeTableOk_cons.1 hd).2.2 (freeTableOk_cons.1 he).2.2 fun b => by
        rw [covers_tail_iff hd, covers_tail_iff he, h]]

/-- The extents of a lawful table begin at different blocks. -/
theorem freeTable_start_inj {es : List Extent} (h : FreeTableOk es) {d e : Extent} (hd : d ∈ es) (he : e ∈ es)
    (hs : d.start = e.start) : d = e := by
  induction es with
  | nil => cases hd
  | cons x xs ih =>
    obtain ⟨-, hlt, hxs⟩ := freeTableOk_cons.1 h
    rcases List.mem_cons.1 hd with hd | hd <;> rcases List.mem_cons.1 he with he | he
    · rw [hd, he]
    · have := hlt e he; subst hd; omega
    · have := hlt d hd; subst he; omega
    · exact ih hxs hd he

/-! ### The return -/

/-- Two extents that meet hold together what one extent over both holds. -/
theorem holds_merge {d e : Extent} (h : d.start + d.count = e.start) (b : Nat) :
    (⟨d.start, d.count + e.count⟩ : Extent).Holds b ↔ d.Holds b ∨ e.Holds b := by
  unfold Extent.Holds; dsimp only; omega

/-- A return adds the extent's blocks. -/
theorem covers_returnExtent (e : Extent) (es : List Extent) (b : Nat) :
    Covers (returnExtent e es) b ↔ e.Holds b ∨ Covers es b := by
  induction es with
  | nil => simp [returnExtent]
  | cons f fs ih =>
    unfold returnExtent
    split_ifs with before meetsBefore meetsAfter
    · simp
    · simp only [covers_cons, holds_merge meetsBefore]; tauto
    · have merged := holds_merge meetsAfter b
      split
      · simp only [covers_cons, merged, not_covers_nil]; tauto
      · next g gs =>
        split_ifs with meetsNext
        · have merged' := holds_merge (d := ⟨f.start, f.count + e.count⟩) (e := g) (by dsimp only; omega) b
          simp only [covers_cons]
          simp only [merged', merged]; tauto
        · simp only [covers_cons, merged]; tauto
    · simp only [covers_cons, ih]; tauto

/-- A return makes no empty extent. -/
theorem count_returnExtent {e : Extent} {es : List Extent} (he : 1 ≤ e.count) (hes : ∀ d ∈ es, 1 ≤ d.count) :
    ∀ d ∈ returnExtent e es, 1 ≤ d.count := by
  induction es with
  | nil => simpa [returnExtent] using he
  | cons f fs ih =>
    obtain ⟨hf, hfs⟩ := List.forall_mem_cons.1 hes
    unfold returnExtent
    split_ifs
    · simp only [List.forall_mem_cons]; exact ⟨he, hf, hfs⟩
    · simp only [List.forall_mem_cons]; exact ⟨by omega, hfs⟩
    · split
      · simp; omega
      · next g gs =>
        obtain ⟨hg, hgs⟩ := List.forall_mem_cons.1 hfs
        split_ifs <;> simp only [List.forall_mem_cons]
        · exact ⟨by omega, hgs⟩
        · exact ⟨by omega, hg, hgs⟩
    · exact List.forall_mem_cons.2 ⟨hf, ih hfs⟩

/-- An extent apart from a table begins above what it and the table begin above. -/
theorem start_returnExtent {e : Extent} {es : List Extent} (he : 1 ≤ e.count) (hes : ∀ d ∈ es, 1 ≤ d.count) {lo : Nat}
    (hle : lo < e.start) (hles : ∀ d ∈ es, lo < d.start) : ∀ d ∈ returnExtent e es, lo < d.start := by
  rw [forall_start_iff (count_returnExtent he hes)]
  intro b hb
  rcases (covers_returnExtent e es b).1 hb with h | h
  · exact hle.trans_le h.1
  · exact (forall_start_iff hes lo).1 hles b h

/-- A return keeps the law of the table (R24, R28). -/
theorem freeTableOk_returnExtent {e : Extent} {es : List Extent} (he : 1 ≤ e.count) (hes : FreeTableOk es)
    (ha : ∀ d ∈ es, Apart e d) : FreeTableOk (returnExtent e es) := by
  induction es with
  | nil => simpa [returnExtent, FreeTableOk] using he
  | cons f fs ih =>
    obtain ⟨hf, hlt, hfs⟩ := freeTableOk_cons.1 hes
    obtain ⟨haf, hafs⟩ := List.forall_mem_cons.1 ha
    unfold returnExtent
    split_ifs with before meetsBefore meetsAfter
    · refine freeTableOk_cons.2 ⟨he, List.forall_mem_cons.2 ⟨before, fun d hd => ?_⟩, hes⟩
      have := hlt d hd; omega
    · refine freeTableOk_cons.2 ⟨by dsimp only; omega, fun d hd => ?_, hfs⟩
      have := hlt d hd; dsimp only; omega
    · split
      · simp [FreeTableOk]; omega
      · next g gs =>
        obtain ⟨hg, hgt, hgs⟩ := freeTableOk_cons.1 hfs
        have hag : Apart e g := hafs g (by simp)
        have hfg := hlt g (by simp)
        unfold Apart at hag
        split_ifs with meetsNext
        · refine freeTableOk_cons.2 ⟨by dsimp only; omega, fun d hd => ?_, hgs⟩
          have := hgt d hd; dsimp only; omega
        · refine freeTableOk_cons.2 ⟨by dsimp only; omega, List.forall_mem_cons.2 ⟨by dsimp only; omega, fun d hd => ?_⟩, hfs⟩
          have := hgt d hd; dsimp only; omega
    · unfold Apart at haf
      exact freeTableOk_cons.2
        ⟨hf, start_returnExtent he (fun d hd => hfs.2 d hd) (by omega) hlt, ih hfs hafs⟩

/-- A return makes and loses no block. -/
theorem blocksOf_returnExtent (e : Extent) (es : List Extent) :
    blocksOf (returnExtent e es) = e.count + blocksOf es := by
  induction es with
  | nil => rfl
  | cons f fs ih =>
    unfold returnExtent
    split_ifs
    · simp
    · simp; omega
    · split
      · simp; omega
      · split_ifs <;> simp <;> omega
    · simp [ih]; omega

@[simp] theorem returnExtents_nil (es : List Extent) : returnExtents [] es = es := rfl

@[simp] theorem returnExtents_cons (d : Extent) (ds es : List Extent) :
    returnExtents (d :: ds) es = returnExtents ds (returnExtent d es) := rfl

theorem covers_returnExtents (ds es : List Extent) (b : Nat) :
    Covers (returnExtents ds es) b ↔ Covers ds b ∨ Covers es b := by
  induction ds generalizing es with
  | nil => simp
  | cons d ds ih => simp only [returnExtents_cons, ih, covers_returnExtent, covers_cons]; tauto

theorem blocksOf_returnExtents (ds es : List Extent) :
    blocksOf (returnExtents ds es) = blocksOf ds + blocksOf es := by
  induction ds generalizing es with
  | nil => simp
  | cons d ds ih => simp only [returnExtents_cons, ih, blocksOf_returnExtent, blocksOf_cons]; omega

/-- An extent is apart from a table exactly when it shares no block with it. -/
theorem forall_apart_iff {e : Extent} {es : List Extent} (he : 1 ≤ e.count) (hes : ∀ d ∈ es, 1 ≤ d.count) :
    (∀ d ∈ es, Apart e d) ↔ ∀ b, e.Holds b → ¬Covers es b := by
  constructor
  · rintro h b hb ⟨d, hd, hdb⟩
    exact (apart_iff he (hes d hd)).1 (h d hd) b hb hdb
  · intro h d hd
    exact (apart_iff he (hes d hd)).2 fun b hb hdb => h b hb ⟨d, hd, hdb⟩

/-- The return of extents that share no block, with each other or with the table, keeps the law of the table. -/
theorem freeTableOk_returnExtents {ds es : List Extent} (hds : ∀ d ∈ ds, 1 ≤ d.count) (hes : FreeTableOk es)
    (hp : (ds ++ es).Pairwise Apart) : FreeTableOk (returnExtents ds es) := by
  induction ds generalizing es with
  | nil => exact hes
  | cons d ds ih =>
    obtain ⟨hd, hds⟩ := List.forall_mem_cons.1 hds
    obtain ⟨had, hp⟩ := List.pairwise_cons.1 hp
    obtain ⟨hpd, hpe, hpde⟩ := List.pairwise_append.1 hp
    have hade : ∀ e ∈ es, Apart d e := fun e he => had e (by simp [he])
    have hok := freeTableOk_returnExtent hd hes hade
    refine ih hds hok (List.pairwise_append.2 ⟨hpd, ?_, fun x hx => ?_⟩)
    · exact hok.1.imp fun h => .inl h.le
    · rw [forall_apart_iff (hds x hx) hok.2]
      intro b hxb hb
      rcases (covers_returnExtent d es b).1 hb with h | h
      · exact (apart_iff hd (hds x hx)).1 (had x (by simp [hx])) b h hxb
      · exact (forall_apart_iff (hds x hx) hes.2).1 (hpde x hx) b hxb h

/-! ### Taking blocks -/

/-- The blocks taken are gone from the table, and no other. -/
theorem covers_takeFrom {e : Extent} {es : List Extent} {n : Nat} (hes : FreeTableOk es) (he : e ∈ es) (hn : n ≤ e.count)
    (b : Nat) : Covers (takeFrom e.start n es) b ↔ Covers es b ∧ ¬(⟨e.start, n⟩ : Extent).Holds b := by
  induction es with
  | nil => cases he
  | cons f fs ih =>
    obtain ⟨hf, hlt, hfs⟩ := freeTableOk_cons.1 hes
    unfold takeFrom
    split_ifs with hs hc
    · have heq := freeTable_start_inj hes (List.mem_cons_self) he hs
      subst heq
      rw [covers_tail_iff hes]
      have := fun h => start_le_of_covers hes (b := b) h
      simp only [Extent.Holds, hc] at *
      constructor <;> rintro ⟨h1, h2⟩ <;> have := this h1 <;> exact ⟨h1, by omega⟩
    · have heq := freeTable_start_inj hes (List.mem_cons_self) he hs
      subst heq
      simp only [covers_cons]
      have := covers_tail_iff hes b
      simp only [covers_cons, Extent.Holds] at *
      constructor
      · rintro (h | h)
        · exact ⟨.inl (by omega), by omega⟩
        · exact ⟨.inr h, by have := (this.1 h).2; omega⟩
      · rintro ⟨h | h, h2⟩
        · exact .inl (by omega)
        · exact .inr h
    · have he' : e ∈ fs := (List.mem_cons.1 he).resolve_left fun h => hs (by rw [h])
      have := hlt e he'
      simp only [covers_cons, ih hfs he']
      simp only [Extent.Holds]
      constructor
      · rintro (h | h)
        · exact ⟨.inl h, by omega⟩
        · exact ⟨.inr h.1, h.2⟩
      · rintro ⟨h | h, h2⟩
        · exact .inl h
        · exact .inr ⟨h, h2⟩

theorem count_takeFrom (start n : Nat) {es : List Extent} (hes : FreeTableOk es) (hn : ∀ e ∈ es, e.start = start → n ≤ e.count) :
    ∀ d ∈ takeFrom start n es, 1 ≤ d.count := by
  induction es with
  | nil => simp [takeFrom]
  | cons f fs ih =>
    obtain ⟨hf, -, hfs⟩ := freeTableOk_cons.1 hes
    obtain ⟨hnf, hnfs⟩ := List.forall_mem_cons.1 hn
    unfold takeFrom
    split_ifs with hs hc
    · exact hfs.2
    · have := hnf hs
      exact List.forall_mem_cons.2 ⟨by dsimp only; omega, hfs.2⟩
    · exact List.forall_mem_cons.2 ⟨hf, ih hfs hnfs⟩

/-- Every extent left of a table lies at the end of one that was in it. -/
theorem exists_of_mem_takeFrom {start n : Nat} {es : List Extent} {d : Extent} (hd : d ∈ takeFrom start n es) :
    ∃ x ∈ es, x.start ≤ d.start ∧ d.count ≤ x.count := by
  induction es with
  | nil => cases hd
  | cons g gs ih =>
    unfold takeFrom at hd
    split_ifs at hd
    · exact ⟨d, by simp [hd], le_rfl, le_rfl⟩
    · rcases List.mem_cons.1 hd with rfl | hd
      · exact ⟨g, by simp, by simp, by simp⟩
      · exact ⟨d, by simp [hd], le_rfl, le_rfl⟩
    · rcases List.mem_cons.1 hd with rfl | hd
      · exact ⟨d, by simp, le_rfl, le_rfl⟩
      · obtain ⟨x, hx, h⟩ := ih hd
        exact ⟨x, by simp [hx], h⟩

/-- What is left of a lawful table is lawful. -/
theorem freeTableOk_takeFrom (start n : Nat) {es : List Extent} (hes : FreeTableOk es)
    (hn : ∀ e ∈ es, e.start = start → n ≤ e.count) : FreeTableOk (takeFrom start n es) := by
  induction es with
  | nil => exact freeTableOk_nil
  | cons f fs ih =>
    obtain ⟨hf, hlt, hfs⟩ := freeTableOk_cons.1 hes
    obtain ⟨hnf, hnfs⟩ := List.forall_mem_cons.1 hn
    unfold takeFrom
    split_ifs with hs hc
    · exact hfs
    · have := hnf hs
      exact freeTableOk_cons.2 ⟨by dsimp only; omega, fun d hd => by have := hlt d hd; dsimp only; omega, hfs⟩
    · refine freeTableOk_cons.2 ⟨hf, fun d hd => ?_, ih hfs hnfs⟩
      obtain ⟨x, hx, hxd, -⟩ := exists_of_mem_takeFrom hd
      have := hlt x hx
      omega

theorem blocksOf_takeFrom {e : Extent} {es : List Extent} {n : Nat} (hes : FreeTableOk es) (he : e ∈ es)
    (hn : n ≤ e.count) : n + blocksOf (takeFrom e.start n es) = blocksOf es := by
  induction es with
  | nil => cases he
  | cons f fs ih =>
    unfold takeFrom
    split_ifs with hs hc
    · simp [← hc]
    · have heq := freeTable_start_inj hes (List.mem_cons_self) he hs
      subst heq
      simp; omega
    · have he' : e ∈ fs := (List.mem_cons.1 he).resolve_left fun h => hs (by rw [h])
      have := ih (freeTableOk_cons.1 hes).2.2 he'
      simp; omega

/-- An extent taken whole is gone from the table. -/
theorem takeFrom_whole {e : Extent} {es : List Extent} (hes : FreeTableOk es) (he : e ∈ es) :
    takeFrom e.start e.count es = es.erase e := by
  induction es with
  | nil => cases he
  | cons f fs ih =>
    unfold takeFrom
    split_ifs with hs hc
    · have heq := freeTable_start_inj hes (List.mem_cons_self) he hs
      subst heq; simp
    · exact absurd (by rw [freeTable_start_inj hes (List.mem_cons_self) he hs]) hc
    · have hne : f ≠ e := fun h => hs (by rw [h])
      rw [List.erase_cons_tail (by simpa using hne), ih (freeTableOk_cons.1 hes).2.2
        ((List.mem_cons.1 he).resolve_left hne.symm)]

end Sys2Proof.Machine

/-! PROOF. Allocation by first fit or gathering (R25 to R27), and its return (R28): what is taken and what is left are
the blocks of the table, sharing none. -/

namespace Sys2Proof.Machine

/-! ### First fit (R26) -/

/-- First fit finds nothing exactly when every free extent is too small. -/
theorem firstFit_eq_none_iff {need : Nat} {es : List Extent} : firstFit need es = none ↔ ∀ e ∈ es, e.count < need := by
  induction es with
  | nil => simp [firstFit]
  | cons e es ih =>
    unfold firstFit
    split_ifs with h
    · simp [h]
    · simp [ih]; omega

/-- First fit takes from the lowest extent that is large enough. -/
theorem firstFit_eq_some {need : Nat} {a b : List Extent} {e : Extent} (he : need ≤ e.count)
    (ha : ∀ d ∈ a, d.count < need) :
    firstFit need (a ++ e :: b) = some (⟨e.start, need⟩,
      a ++ if e.count = need then b else ⟨e.start + need, e.count - need⟩ :: b) := by
  induction a with
  | nil => simp [firstFit, he]
  | cons d a ih =>
    obtain ⟨hd, ha⟩ := List.forall_mem_cons.1 ha
    simp only [List.cons_append, firstFit, if_neg (Nat.not_le.2 hd), ih ha, Option.map_some]

/-- First fit takes blocks as any taking does. -/
theorem firstFit_spec {need : Nat} {es rest : List Extent} {x : Extent} (hes : FreeTableOk es)
    (h : firstFit need es = some (x, rest)) :
    ∃ e ∈ es, need ≤ e.count ∧ x = ⟨e.start, need⟩ ∧ rest = takeFrom e.start need es := by
  induction es generalizing rest with
  | nil => cases h
  | cons f fs ih =>
    unfold firstFit at h
    by_cases hf : need ≤ f.count
    · simp only [if_pos hf, Option.some.injEq, Prod.mk.injEq] at h
      exact ⟨f, by simp, hf, h.1.symm, by simp [takeFrom, h.2.symm]⟩
    · rw [if_neg hf] at h
      obtain ⟨⟨y, q⟩, hq, heq⟩ := Option.map_eq_some_iff.1 h
      simp only [Prod.mk.injEq] at heq
      obtain ⟨rfl, rfl⟩ := heq
      obtain ⟨e, he, hn, hx, hr⟩ := ih (freeTableOk_cons.1 hes).2.2 hq
      have hne : f.start ≠ e.start := fun hs => hf (by
        rwa [freeTable_start_inj hes (List.mem_cons_self) (List.mem_cons_of_mem _ he) hs])
      exact ⟨e, by simp [he], hn, hx, by rw [hr, takeFrom, if_neg hne]⟩

/-! ### The largest extent (R27) -/

theorem largest_eq_none_iff {es : List Extent} : largest es = none ↔ es = [] := by
  cases es with
  | nil => simp [largest]
  | cons e es =>
    unfold largest
    split
    · simp
    · split_ifs <;> simp

/-- An extent goes before another in the gathering: it is larger, or as large and lower. -/
def Before (d e : Extent) : Prop := e.count < d.count ∨ (d.count = e.count ∧ d.start ≤ e.start)

theorem Before.trans {d e f : Extent} (h : Before d e) (h' : Before e f) : Before d f := by
  unfold Before at *; omega

/-- The gathering considers an extent of the table that goes before every other. -/
theorem largest_spec {es : List Extent} {e : Extent} (h : largest es = some e) : e ∈ es ∧ ∀ d ∈ es, Before e d := by
  induction es generalizing e with
  | nil => cases h
  | cons f fs ih =>
    unfold largest at h
    split at h
    · next hn =>
      rw [largest_eq_none_iff.1 hn]
      cases h
      simp [Before]
    · next d hd =>
      obtain ⟨hmem, hmax⟩ := ih hd
      split_ifs at h with hf <;> cases h
      · have hfd : Before f d := by
          simp only [Bool.or_eq_true, Bool.and_eq_true, decide_eq_true_eq, beq_iff_eq, gt_iff_lt] at hf
          unfold Before; omega
        exact ⟨by simp, List.forall_mem_cons.2 ⟨by simp [Before], fun x hx => hfd.trans (hmax x hx)⟩⟩
      · have hdf : Before e f := by
          simp only [Bool.or_eq_true, Bool.and_eq_true, decide_eq_true_eq, beq_iff_eq, gt_iff_lt, not_or, not_and] at hf
          unfold Before; omega
        exact ⟨List.mem_cons_of_mem _ hmem, List.forall_mem_cons.2 ⟨hdf, hmax⟩⟩

/-! ### Taken from a table -/

/-- Extents `taken` have been taken out of table `es`, which leaves `rest`. -/
structure TakenFrom (es taken rest : List Extent) : Prop where
  lawful : FreeTableOk rest
  nonempty : ∀ e ∈ taken, 1 ≤ e.count
  apart : (taken ++ rest).Pairwise Apart
  covers : ∀ b, Covers (taken ++ rest) b ↔ Covers es b
  blocks : blocksOf taken + blocksOf rest = blocksOf es

/-- The first blocks of one extent, taken. -/
theorem takenFrom_one {es : List Extent} {e : Extent} {n : Nat} (hes : FreeTableOk es) (he : e ∈ es) (h1 : 1 ≤ n)
    (hn : n ≤ e.count) : TakenFrom es [⟨e.start, n⟩] (takeFrom e.start n es) where
  lawful := freeTableOk_takeFrom _ _ hes fun d hd hs => freeTable_start_inj hes hd he hs ▸ hn
  nonempty := by simpa using h1
  apart := by
    have hok := freeTableOk_takeFrom e.start n hes fun d hd hs => freeTable_start_inj hes hd he hs ▸ hn
    refine List.pairwise_cons.2 ⟨?_, hok.1.imp fun h => .inl h.le⟩
    refine (forall_apart_iff h1 hok.2).2 ?_
    exact fun b hb hc => ((covers_takeFrom hes he hn b).1 hc).2 hb
  covers b := by
    rw [List.cons_append, List.nil_append, covers_cons, covers_takeFrom hes he hn]
    have : (⟨e.start, n⟩ : Extent).Holds b → Covers es b := fun h => ⟨e, he, h.1, by have := h.2; dsimp only at this; omega⟩
    tauto
  blocks := by simpa using blocksOf_takeFrom hes he hn

/-- A taking after a taking of one extent. -/
theorem TakenFrom.cons {es mid taken rest : List Extent} {e : Extent} (h1 : TakenFrom es [e] mid)
    (h2 : TakenFrom mid taken rest) : TakenFrom es (e :: taken) rest where
  lawful := h2.lawful
  nonempty := List.forall_mem_cons.2 ⟨h1.nonempty e (by simp), h2.nonempty⟩
  apart := by
    have he := h1.nonempty e (by simp)
    have hmid : ∀ d ∈ mid, Apart e d := (List.pairwise_cons.1 h1.apart).1
    refine List.pairwise_cons.2 ⟨?_, h2.apart⟩
    refine (forall_apart_iff he fun d hd => (List.mem_append.1 hd).elim (h2.nonempty d) (h2.lawful.2 d)).2 ?_
    intro b hb hc
    exact (forall_apart_iff he h1.lawful.2).1 hmid b hb ((h2.covers b).1 hc)
  covers b := by
    rw [List.cons_append, covers_cons, h2.covers, ← h1.covers, List.cons_append, List.nil_append, covers_cons]
  blocks := by
    have := h1.blocks
    have := h2.blocks
    simp at *; omega

/-- The return of what was taken restores the table (R28). -/
theorem TakenFrom.returned {es taken rest : List Extent} (h : TakenFrom es taken rest) (hes : FreeTableOk es) :
    returnExtents taken rest = es :=
  freeTable_ext (freeTableOk_returnExtents h.nonempty h.lawful h.apart) hes fun b => by
    rw [covers_returnExtents, ← h.covers, covers_append]

/-! ### Gathering (R27) -/

/-- The gathering takes what it needs from the table, at most `k` extents of it. -/
theorem gather_takes {k need : Nat} {es taken rest : List Extent} (hn : 1 ≤ need) (hes : FreeTableOk es)
    (h : gather k need es = some (taken, rest)) :
    TakenFrom es taken rest ∧ blocksOf taken = need ∧ 1 ≤ taken.length ∧ taken.length ≤ k := by
  induction k generalizing need es taken rest with
  | zero => cases h
  | succ k ih =>
    unfold gather at h
    split at h
    · cases h
    · next e he =>
      have hmem := (largest_spec he).1
      split_ifs at h with hc
      · cases h
        exact ⟨takenFrom_one hes hmem hn hc, by simp, by simp, by simp⟩
      · obtain ⟨⟨ys, q⟩, hq, heq⟩ := Option.map_eq_some_iff.1 h
        cases heq
        have hone := takenFrom_one hes hmem (hes.2 e hmem) le_rfl
        obtain ⟨htaken, hsum, -, hlen⟩ := ih (by omega) hone.lawful hq
        exact ⟨hone.cons htaken, by simp [hsum]; omega, by simp, by simp [hlen]⟩

/-- The gathering fails exactly when no `k` free extents hold enough. -/
theorem gather_eq_none_iff {k need : Nat} {es : List Extent} (hn : 1 ≤ need) (hes : FreeTableOk es) :
    gather k need es = none ↔ ∀ l, l.Subperm es → l.length ≤ k → blocksOf l < need := by
  induction k generalizing need es with
  | zero =>
    simp only [gather, true_iff]
    intro l _ hl
    obtain rfl := List.length_eq_zero_iff.1 (Nat.le_zero.1 hl)
    exact hn
  | succ k ih =>
    unfold gather
    split
    · next he =>
      rw [largest_eq_none_iff.1 he]
      simp only [List.subperm_nil, true_iff]
      rintro l rfl -
      exact hn
    · next e he =>
      obtain ⟨hmem, hmax⟩ := largest_spec he
      split_ifs with hc
      · simp only [false_iff, not_forall]
        exact ⟨[e], List.singleton_subperm_iff.2 hmem, by simp, by simpa using hc⟩
      · rw [Option.map_eq_none_iff, takeFrom_whole hes hmem,
          ih (by omega) (takeFrom_whole hes hmem ▸ (takenFrom_one hes hmem (hes.2 e hmem) le_rfl).lawful)]
        constructor
        · intro h l hl hlen
          by_cases hel : e ∈ l
          · have hp := List.perm_cons_erase hel
            have hlen' := hp.length_eq
            have hsub : (l.erase e).Subperm (es.erase e) := hl.erase e
            have := h _ hsub (by simp at hlen'; omega)
            rw [blocksOf_perm hp, blocksOf_cons]
            omega
          · cases l with
            | nil => exact hn
            | cons x l =>
              have hx : x.count ≤ e.count := by
                have := hmax x (hl.subset (by simp)); unfold Before at this; omega
              have hsub : l.Subperm (es.erase e) := by
                have hxl : l.Subperm ((x :: l).erase e) := by
                  rw [List.erase_of_not_mem hel]; exact (List.sublist_cons_self x l).subperm
                exact hxl.trans (hl.erase e)
              have := h l hsub (by simpa using hlen)
              simp; omega
        · intro h l hl hlen
          have hsub : (e :: l).Subperm es :=
            ((List.subperm_cons e).2 hl).trans (List.perm_cons_erase hmem).symm.subperm
          have := h _ hsub (by simpa using hlen)
          simp at this; omega

/-- All but the last of the gathered extents are whole extents of the table, each before every later one and before
every extent left. -/
theorem gather_order {k need : Nat} {es taken rest : List Extent} (hes : FreeTableOk es)
    (h : gather k need es = some (taken, rest)) :
    (∀ x ∈ taken.dropLast, x ∈ es) ∧
      taken.dropLast.Pairwise (fun d e => e.count < d.count ∨ (d.count = e.count ∧ d.start < e.start)) ∧
      (∀ d ∈ rest, ∃ e ∈ es, d.count ≤ e.count) ∧ ∀ x ∈ taken.dropLast, ∀ e ∈ rest, e.count ≤ x.count := by
  induction k generalizing need es taken rest with
  | zero => cases h
  | succ k ih =>
    unfold gather at h
    split at h
    · cases h
    · next e he =>
      obtain ⟨hmem, hmax⟩ := largest_spec he
      split_ifs at h with hc
      · cases h
        refine ⟨by simp, by simp, fun d hd => ?_, by simp⟩
        obtain ⟨x, hx, -, hle⟩ := exists_of_mem_takeFrom hd
        exact ⟨x, hx, hle⟩
      · obtain ⟨⟨ys, q⟩, hq, heq⟩ := Option.map_eq_some_iff.1 h
        cases heq
        rw [takeFrom_whole hes hmem] at hq
        have hok : FreeTableOk (es.erase e) :=
          takeFrom_whole hes hmem ▸ (takenFrom_one hes hmem (hes.2 e hmem) le_rfl).lawful
        obtain ⟨hsub, hpair, hrest, hle⟩ := ih hok hq
        have hlow : ∀ d ∈ q, d.count ≤ e.count := fun d hd => by
          obtain ⟨f, hf, hdf⟩ := hrest d hd
          have := hmax f (List.mem_of_mem_erase hf)
          unfold Before at this; omega
        have hrest' : ∀ d ∈ q, ∃ e ∈ es, d.count ≤ e.count := fun d hd => ⟨e, hmem, hlow d hd⟩
        cases ys with
        | nil => exact ⟨by simp, by simp, hrest', by simp⟩
        | cons y ys =>
          rw [List.dropLast_cons_of_ne_nil (by simp)]
          refine ⟨List.forall_mem_cons.2 ⟨hmem, fun x hx => List.mem_of_mem_erase (hsub x hx)⟩,
            List.pairwise_cons.2 ⟨fun x hx => ?_, hpair⟩, hrest', List.forall_mem_cons.2 ⟨hlow, hle⟩⟩
          have hxe := hsub x hx
          have hb := hmax x (List.mem_of_mem_erase hxe)
          have hne : e.start ≠ x.start := fun hs => by
            rw [freeTable_start_inj hes hmem (List.mem_of_mem_erase hxe) hs] at hxe
            exact (List.Nodup.not_mem_erase (hes.1.imp fun hlt heq => by subst heq; omega)) hxe
          unfold Before at hb
          omega

/-! ### Allocation (R25 to R27) -/

/-- An allocation takes what it needs from the table, at most 8 extents of it. -/
theorem allocate_takes {need : Nat} {es taken rest : List Extent} (hn : 1 ≤ need) (hes : FreeTableOk es)
    (h : allocate need es = some (taken, rest)) :
    TakenFrom es taken rest ∧ blocksOf taken = need ∧ 1 ≤ taken.length ∧ taken.length ≤ 8 := by
  unfold allocate at h
  split at h
  · next x q hx =>
    cases h
    obtain ⟨e, he, hne, rfl, rfl⟩ := firstFit_spec hes hx
    exact ⟨takenFrom_one hes he hn hne, by simp, by simp, by simp⟩
  · exact gather_takes hn hes h

/-- An allocation fails exactly when no 8 free extents hold enough. -/
theorem allocate_eq_none_iff {need : Nat} {es : List Extent} (hn : 1 ≤ need) (hes : FreeTableOk es) :
    allocate need es = none ↔ ∀ l, l.Sublist es → l.length ≤ 8 → blocksOf l < need := by
  have hperm : (∀ l, l.Sublist es → l.length ≤ 8 → blocksOf l < need) ↔
      ∀ l, l.Subperm es → l.length ≤ 8 → blocksOf l < need := by
    constructor
    · rintro h l ⟨l', hp, hsub⟩ hlen
      rw [← blocksOf_perm hp]
      exact h l' hsub (hp.length_eq ▸ hlen)
    · exact fun h l hl => h l hl.subperm
  rw [hperm]
  unfold allocate
  cases hx : firstFit need es with
  | none => exact gather_eq_none_iff hn hes
  | some p =>
    obtain ⟨e, he, hne, -, -⟩ := firstFit_spec hes (x := p.1) (rest := p.2) hx
    simp only [reduceCtorEq, false_iff, not_forall]
    exact ⟨[e], List.singleton_subperm_iff.2 he, by simp, by simpa using hne⟩

/-- A line's blocks hold its capacity, and no fewer blocks do (R25). -/
theorem blocksNeeded_least (C channels : Nat) : C * (4 * channels) ≤ 4096 * blocksNeeded C channels ∧
    ∀ B, C * (4 * channels) ≤ 4096 * B → blocksNeeded C channels ≤ B := by
  unfold blocksNeeded Config.blockBytes
  generalize C * (4 * channels) = x
  exact ⟨by omega, fun B _ => by omega⟩

/-- Settles O58: first fit and the gathering both take blocks out of the table, so that the return restores the one lawful
table of those blocks; the gathering's failure is that of the largest extents. -/
theorem allocation : Obligations.Allocation := by
  refine ⟨blocksNeeded_least, fun need es hn hes => ⟨allocate_eq_none_iff hn hes, ?_, ?_⟩⟩
  · rintro a e b rfl he ha
    simp [allocate, firstFit_eq_some he ha]
  · intro taken rest h
    obtain ⟨htaken, hsum, h1, h8⟩ := allocate_takes hn hes h
    refine ⟨hsum, htaken.blocks, h1, h8, htaken.lawful, htaken.returned hes, ?_, fun hsmall => ?_⟩
    · unfold allocate at h
      split at h
      · cases h; simp
      · exact (gather_order hes h).1
    · rw [allocate, firstFit_eq_none_iff.2 hsmall] at h
      obtain ⟨-, hpair, -, hle⟩ := gather_order hes h
      exact ⟨hpair, hle⟩

end Sys2Proof.Machine

/-! PROOF. Fields of byte strings: what a field holds of a string put together from values, least significant byte
first. -/

namespace Sys2Proof

@[simp] theorem length_leBytes (n v : Nat) : (leBytes n v).length = n := by
  induction n generalizing v with
  | zero => rfl
  | succ n ih => simp [leBytes, ih]

/-- The low bytes of a value are its value up to their weight. -/
@[simp] theorem leNat_leBytes (n v : Nat) : leNat (leBytes n v) = v % 256 ^ n := by
  induction n generalizing v with
  | zero => simp [leBytes, leNat, Nat.mod_one]
  | succ n ih =>
    rw [leBytes, leNat, ih, BitVec.toNat_ofNat, pow_succ' 256 n]
    exact Nat.mod_mul.symm

theorem leNat_lt (bs : List Byte) : leNat bs < 256 ^ bs.length := by
  induction bs with
  | nil => simp [leNat]
  | cons b bs ih =>
    have := b.isLt
    rw [leNat, List.length_cons, pow_succ']
    omega

/-- A field's value fits its size. -/
theorem field_lt (bs : List Byte) (off n : Nat) : field bs off n < 256 ^ n :=
  (leNat_lt _).trans_le (Nat.pow_le_pow_right (by norm_num) (by simp))

theorem leBytes_zero (n : Nat) : leBytes n 0 = List.replicate n 0 := by
  induction n with
  | zero => rfl
  | succ n ih => simp [leBytes, ih, List.replicate_succ]

theorem leNat_replicate_zero (n : Nat) : leNat (List.replicate n 0) = 0 := by
  rw [← leBytes_zero, leNat_leBytes, Nat.zero_mod]

/-- A byte is a field of one byte. -/
theorem byteAt_eq_field (bs : List Byte) (i : Nat) : byteAt bs i = field bs i 1 := by
  unfold byteAt field
  by_cases h : i < bs.length
  · rw [List.drop_eq_getElem_cons h, List.getD_eq_getElem _ _ h]
    simp only [List.take_succ_cons, List.take_zero, leNat, Nat.mul_zero, Nat.add_zero]
  · rw [List.drop_eq_nil_of_le (by omega), List.getD_eq_default _ _ (by omega)]
    rfl

/-- A field behind the first part of a string is a field of the rest. -/
theorem field_append_right {xs ys : List Byte} {off n : Nat} (h : xs.length ≤ off) :
    field (xs ++ ys) off n = field ys (off - xs.length) n := by
  unfold field
  rw [List.drop_append, List.drop_eq_nil_of_le h, List.nil_append]

/-- A field within the first part of a string. -/
theorem field_append_left {xs ys : List Byte} {off n : Nat} (h : off + n ≤ xs.length) :
    field (xs ++ ys) off n = field xs off n := by
  unfold field
  rw [List.drop_append, List.take_append_of_le_length (by simp; omega)]

/-- A field that a value was put in holds the value, as far as it fits. -/
@[simp] theorem field_leBytes_here (n v : Nat) (ys : List Byte) : field (leBytes n v ++ ys) 0 n = v % 256 ^ n := by
  rw [field_append_left (by simp), field, List.drop_zero, List.take_of_length_le (by simp), leNat_leBytes]

/-- A field behind a value. -/
theorem field_leBytes_skip {n off : Nat} (v k : Nat) (ys : List Byte) (h : n ≤ off) :
    field (leBytes n v ++ ys) off k = field ys (off - n) k := by
  rw [field_append_right (by simpa using h), length_leBytes]

/-- A field of zero bytes, or of none. -/
@[simp] theorem field_replicate_zero (m off n : Nat) : field (List.replicate m 0) off n = 0 := by
  rw [field, List.drop_replicate, List.take_replicate, leNat_replicate_zero]

@[simp] theorem field_nil (off n : Nat) : field [] off n = 0 := field_replicate_zero 0 off n

/-- A field within a value of 0. -/
theorem field_leBytes_zero {n off k : Nat} (ys : List Byte) (h : off + k ≤ n) : field (leBytes n 0 ++ ys) off k = 0 := by
  rw [field_append_left (by simpa using h), leBytes_zero, field_replicate_zero]

/-- The fields of a string of equal parts. -/
theorem field_flatMap {α : Type} {f : α → List Byte} {w : Nat} (hf : ∀ x, (f x).length = w) (xs : List α)
    (ys : List Byte) {i : Nat} (hi : i < xs.length) (j : Nat) {n : Nat} (h : j + n ≤ w) :
    field (xs.flatMap f ++ ys) (w * i + j) n = field (f xs[i]) j n := by
  induction xs generalizing i with
  | nil => simp at hi
  | cons x xs ih =>
    rw [List.flatMap_cons, List.append_assoc]
    cases i with
    | zero => rw [Nat.mul_zero, Nat.zero_add, field_append_left (by rw [hf]; exact h)]; rfl
    | succ i =>
      have hge : w ≤ w * (i + 1) + j := by rw [Nat.mul_succ]; omega
      rw [field_append_right (by rw [hf]; exact hge), hf, show w * (i + 1) + j - w = w * i + j by rw [Nat.mul_succ]; omega]
      exact ih (by simpa using hi)

theorem length_flatMap_of_length {α : Type} {f : α → List Byte} {w : Nat} (hf : ∀ x, (f x).length = w) (xs : List α) :
    (xs.flatMap f).length = w * xs.length := by
  induction xs with
  | nil => simp
  | cons x xs ih => rw [List.flatMap_cons, List.length_append, hf, ih, List.length_cons, Nat.mul_succ, Nat.add_comm]

/-! ### Checks -/

/-- No check of a list fails exactly when every one passes. -/
theorem firstFailure_eq_none_iff (cs : List FieldCheck) : firstFailure cs = none ↔ ∀ c ∈ cs, c.ok = true := by
  induction cs with
  | nil => simp [firstFailure]
  | cons c cs ih => cases h : c.ok <;> simp [firstFailure, h, ih]

/-- The first check that fails gives the aux (R65). -/
theorem firstFailure_append {before after : List FieldCheck} {c : FieldCheck} (hb : ∀ d ∈ before, d.ok = true)
    (hc : c.ok = false) : firstFailure (before ++ c :: after) = some (c.code + 65536 * c.off) := by
  induction before with
  | nil => simp [firstFailure, hc]
  | cons d before ih =>
    obtain ⟨hd, hb⟩ := List.forall_mem_cons.1 hb
    simp [firstFailure, hd, ih hb]

/-- A run of zero checks passes when every byte of it is zero. -/
theorem zeroChecks_ok_iff (bs : List Byte) (lo n : Nat) :
    (∀ c ∈ zeroChecks bs lo n, c.ok = true) ↔ ∀ i, lo ≤ i → i < lo + n → field bs i 1 = 0 := by
  simp only [zeroChecks, List.forall_mem_map, List.mem_range'_1, byteAt_eq_field, beq_iff_eq, and_imp]

end Sys2Proof

/-! PROOF. The decode of a record: what passes is in range (R50, R64 to R69), and what is refused is refused at its first
failing field (R65). -/

namespace Sys2Proof

/-! ### Kinds -/

theorem kindOfByte_eq_some_iff (b : Byte) (kind : Kind) : kindOfByte b = some kind ↔ b.toNat = kindCode kind := by
  unfold kindOfByte
  constructor
  · intro h
    split at h <;> simp_all [kindCode] <;> subst h <;> rfl
  · intro h
    rw [h]
    cases kind <;> rfl

@[simp] theorem kindOfBody_bodyOf (bs : List Byte) (kind : Kind) : kindOfBody (bodyOf bs kind) = kind := by
  cases kind <;> rfl

/-- The checks of a record of a kind, in order of offset. -/
def recordChecks (bs : List Byte) (kind : Kind) : List FieldCheck := headerChecks bs kind ++ bodyChecks bs (byteAt bs 1) kind

/-- The record a kind's fields make. -/
def recordOf (bs : List Byte) (kind : Kind) : Record :=
  ⟨flagBit bs 0, flagBit bs 1, BitVec.ofNat 16 (field bs 4 2), bodyOf bs kind⟩

theorem decodeRecord_unknown {k : RingId} {bs : List Byte} (h : kindOfByte (bs.getD 0 0) = none) :
    decodeRecord k bs = .badRecord 1 := by
  rw [decodeRecord, h]

theorem decodeRecord_wrongRing {k : RingId} {bs : List Byte} {kind : Kind} (h : kindOfByte (bs.getD 0 0) = some kind)
    (hk : isWorkKind kind = decide (k = 0)) : decodeRecord k bs = .wrongRing := by
  rw [decodeRecord, h]
  dsimp only
  rw [if_pos (by simpa using hk)]

/-- A record of a ring's own kind is refused at its first failing field or passes. -/
theorem decodeRecord_fields {k : RingId} {bs : List Byte} {kind : Kind} (h : kindOfByte (bs.getD 0 0) = some kind)
    (hk : isWorkKind kind ≠ decide (k = 0)) :
    decodeRecord k bs = match firstFailure (recordChecks bs kind) with
      | some aux => .badRecord aux
      | none => .record (recordOf bs kind) := by
  unfold decodeRecord
  rw [h]
  dsimp only
  rw [if_neg (by simpa using hk)]
  rfl

/-- What a record that passes decode is (R50). -/
theorem decodeRecord_eq_record {k : RingId} {bs : List Byte} {r : Record} (h : decodeRecord k bs = .record r) :
    ∃ kind, isWorkKind kind = decide (k ≠ 0) ∧ (∀ c ∈ recordChecks bs kind, c.ok = true) ∧ r = recordOf bs kind := by
  cases hkind : kindOfByte (bs.getD 0 0) with
  | none => rw [decodeRecord_unknown hkind] at h; cases h
  | some kind =>
    by_cases hk : isWorkKind kind = decide (k = 0)
    · rw [decodeRecord_wrongRing hkind hk] at h; cases h
    · rw [decodeRecord_fields hkind hk] at h
      cases hf : firstFailure (recordChecks bs kind) with
      | some aux => rw [hf] at h; cases h
      | none =>
        rw [hf] at h
        cases h
        refine ⟨kind, ?_, (firstFailure_eq_none_iff _).1 hf, rfl⟩
        cases hw : isWorkKind kind <;> simp_all

/-! ### The ranges of what passes -/

theorem addrAt_toNat (bs : List Byte) (off : Nat) : (addrAt bs off).toNat = field bs off 8 := by
  rw [addrAt, BitVec.toNat_ofNat]
  exact Nat.mod_eq_of_lt (field_lt bs off 8)

theorem wfPosition_field (bs : List Byte) (off : Nat) : wfPosition (field bs off 6) = true :=
  decide_eq_true (Nat.le_sub_one_of_lt (field_lt bs off 6))

/-- A ring number from 1 up is not 0. -/
theorem ofNat_ne_zero {n m : Nat} (h1 : 1 ≤ m) (h2 : m < n + 1) : (Fin.ofNat (n + 1) m) ≠ 0 := by
  intro h
  have := congrArg Fin.val h
  simp [Fin.ofNat, Nat.mod_eq_of_lt h2] at this
  omega

/-- The target ring of lap settings that pass is 0 while notices are off. -/
theorem wfLap_lapOf {bs : List Byte} (h : ∀ c ∈ lineSettingChecks bs, c.ok = true) : wfLap (lapOf bs) = true := by
  simp only [lineSettingChecks, List.forall_mem_cons, Bool.and_eq_true, Bool.or_eq_true, beq_iff_eq] at h
  obtain ⟨-, -, ⟨-, hon⟩, -⟩ := h
  rcases hon with hon | hon <;> simp [wfLap, lapOf, hon]

/-- Every kind's fields are in range once its checks pass (R66 to R69). -/
theorem wfBody_of_checks {bs : List Byte} {kind : Kind} (h : ∀ c ∈ recordChecks bs kind, c.ok = true) :
    wfBody (bodyOf bs kind) = true := by
  have hb : ∀ c ∈ bodyChecks bs (byteAt bs 1) kind, c.ok = true := fun c hc => h c (List.mem_append_right _ hc)
  cases kind <;>
    simp only [bodyChecks, List.forall_mem_append, List.forall_mem_cons, alignCheck, framesCheck, waitCheck, rangeCheck,
      Bool.and_eq_true, Bool.or_eq_true, decide_eq_true_eq, beq_iff_eq] at hb
  case deposit =>
    obtain ⟨ha, ⟨hf1, hf2⟩, -⟩ := hb
    simp [bodyOf, wfBody, wfAligned, wfFrames, addrAt_toNat, *]
  case skip =>
    obtain ⟨-, ⟨hf1, hf2⟩, -⟩ := hb
    simp [bodyOf, wfBody, wfFrames, *]
  case tap =>
    obtain ⟨⟨ha, ⟨hf1, hf2⟩, hw, -⟩, -⟩ := hb
    simp [bodyOf, wfBody, wfAligned, wfFrames, wfWait, wfPosition_field, addrAt_toNat, *]
  case mix =>
    obtain ⟨⟨⟨⟨ha, ⟨hf1, hf2⟩, hw, hcount, -⟩, -⟩, -⟩, -⟩ := hb
    have h1 : 1 ≤ byteAt bs 24 ∧ byteAt bs 24 ≤ 8 := by omega
    have hp : ∀ t ∈ (List.range (byteAt bs 24)).map (tapOf bs), wfPosition t.field = true := by
      simp only [List.forall_mem_map]
      exact fun i _ => wfPosition_field bs _
    cases hd : flagBit bs 3 <;> simp only [hd] at ha
    · have ha : field bs 8 8 % 4 = 0 := by simpa using ha
      simpa [bodyOf, wfBody, wfAligned, wfFrames, wfWait, addrAt_toNat, ha, hf1, hf2, hw, h1, hd] using hp
    · have hz : addrAt bs 8 = 0 := BitVec.eq_of_toNat_eq (by rw [addrAt_toNat]; simpa using ha)
      simpa [bodyOf, wfBody, wfFrames, wfWait, hz, hf1, hf2, hw, h1, hd] using hp
  case openLine =>
    obtain ⟨⟨⟨hc1, hc2⟩, hl⟩, ⟨hC1, hC2⟩, -⟩ := hb
    simp [bodyOf, wfBody, wfLap_lapOf hl, *]
  case setLine =>
    obtain ⟨⟨-, hl⟩, -⟩ := hb
    simp [bodyOf, wfBody, wfLap_lapOf hl]
  case closeLine => rfl
  case queryLine => simp [bodyOf, wfBody, wfAligned, addrAt_toNat, hb.1]
  case queryStore => simp [bodyOf, wfBody, wfAligned, addrAt_toNat, hb.1]
  case createRing =>
    obtain ⟨⟨⟨⟨hr1, hr2⟩, ⟨hs1, hs2⟩, ⟨-, hp⟩, ⟨hw1, hw2⟩, -⟩, -⟩, ha, -⟩ := hb
    have := ofNat_ne_zero hr1 (n := 15) (by omega)
    simp_all [bodyOf, wfBody, wfAligned, addrAt_toNat]
  case createResponse =>
    obtain ⟨⟨⟨⟨hr1, hr2⟩, ⟨hs1, hs2⟩, ⟨hc1, hc2⟩, -⟩, -⟩, ha, -⟩ := hb
    have := ofNat_ne_zero hr1 (n := 3) (by omega)
    have := field_lt bs 12 2
    simp_all [bodyOf, wfBody, wfAligned, addrAt_toNat]
    omega
  case deleteRing =>
    have := ofNat_ne_zero hb.1.1 (n := 15) (by omega)
    simpa [bodyOf, wfBody] using this
  case pauseRing =>
    have := ofNat_ne_zero hb.1.1 (n := 15) (by omega)
    simpa [bodyOf, wfBody] using this
  case resumeRing =>
    have := ofNat_ne_zero hb.1.1 (n := 15) (by omega)
    simpa [bodyOf, wfBody] using this
  case deleteResponse =>
    have := ofNat_ne_zero hb.1.1 (n := 3) (by omega)
    simpa [bodyOf, wfBody] using this

/-! ### The order of the checks -/

/-- The offsets of a list of checks rise strictly. -/
def OffsetsRise (cs : List FieldCheck) : Prop := cs.Pairwise fun c d => c.off < d.off

/-- The checks of a list stand at offsets from `lo` up to `hi` - 1, with codes of R65. -/
def StandIn (lo hi : Nat) (cs : List FieldCheck) : Prop :=
  ∀ c ∈ cs, lo ≤ c.off ∧ c.off < hi ∧ 2 ≤ c.code ∧ c.code ≤ 18

theorem standIn_zeroChecks (bs : List Byte) (lo n : Nat) : StandIn lo (lo + n) (zeroChecks bs lo n) := by
  simp only [StandIn, zeroChecks, List.forall_mem_map, List.mem_range'_1]
  omega

theorem offsetsRise_zeroChecks (bs : List Byte) (lo n : Nat) : OffsetsRise (zeroChecks bs lo n) := by
  rw [OffsetsRise, zeroChecks, List.pairwise_map]
  exact List.pairwise_lt_range'

/-- Checks at offsets that rise from `lo` up to `hi`. -/
def Ordered (lo hi : Nat) (cs : List FieldCheck) : Prop := OffsetsRise cs ∧ StandIn lo hi cs

theorem ordered_nil (lo hi : Nat) : Ordered lo hi [] := by simp [Ordered, OffsetsRise, StandIn]

theorem ordered_zeroChecks (bs : List Byte) {lo n hi : Nat} (h : lo + n ≤ hi) : Ordered lo hi (zeroChecks bs lo n) :=
  ⟨offsetsRise_zeroChecks bs lo n, fun c hc => by have := standIn_zeroChecks bs lo n c hc; omega⟩

theorem Ordered.append {lo mid hi : Nat} {cs ds : List FieldCheck} (hc : Ordered lo mid cs) (hd : Ordered mid hi ds)
    (h1 : lo ≤ mid) (h2 : mid ≤ hi) : Ordered lo hi (cs ++ ds) := by
  refine ⟨List.pairwise_append.2 ⟨hc.1, hd.1, fun c hcc d hdd => ?_⟩, List.forall_mem_append.2 ⟨fun c h => ?_, fun d h => ?_⟩⟩
  · have := hc.2 c hcc; have := hd.2 d hdd; omega
  · have := hc.2 c h; omega
  · have := hd.2 d h; omega

theorem Ordered.mono {lo lo' hi hi' : Nat} {cs : List FieldCheck} (h : Ordered lo hi cs) (h1 : lo' ≤ lo) (h2 : hi ≤ hi') :
    Ordered lo' hi' cs :=
  ⟨h.1, fun c hc => by have := h.2 c hc; omega⟩

/-- A check at an offset before those of ordered checks. -/
theorem Ordered.check {off code mid hi : Nat} {ok : Bool} {ds : List FieldCheck} (hd : Ordered mid hi ds)
    (h : off < mid ∧ mid ≤ hi ∧ 2 ≤ code ∧ code ≤ 18) : Ordered off hi (⟨off, code, ok⟩ :: ds) :=
  Ordered.append (mid := mid) (cs := [⟨off, code, ok⟩]) ⟨List.pairwise_singleton _ _, by simp [StandIn]; omega⟩ hd
    (by omega) (by omega)

theorem ordered_tapChecks (bs : List Byte) (count i : Nat) :
    Ordered (tapOffset i) (tapOffset (i + 1)) (tapChecks bs count i) := by
  have hstep : tapOffset (i + 1) = tapOffset i + 12 := by unfold tapOffset; omega
  unfold tapChecks
  split_ifs
  · exact ((ordered_zeroChecks bs (hi := tapOffset (i + 1)) (by omega)).check (by omega)).mono (by omega) le_rfl
  · exact ordered_zeroChecks bs (by omega)

theorem ordered_tapsChecks (bs : List Byte) (count n : Nat) :
    Ordered (tapOffset 0) (tapOffset n) ((List.range n).flatMap (tapChecks bs count)) := by
  induction n with
  | zero => exact ordered_nil _ _
  | succ n ih =>
    rw [List.range_succ, List.flatMap_append, List.flatMap_singleton]
    exact ih.append (ordered_tapChecks bs count n) (by unfold tapOffset; omega) (by unfold tapOffset; omega)

theorem ordered_headerChecks (bs : List Byte) (kind : Kind) : Ordered 0 8 (headerChecks bs kind) :=
  (((ordered_zeroChecks bs (lo := 7) (n := 1) (by decide)).check (by decide)).check (by decide)).mono (by decide) le_rfl

theorem ordered_lineSettingChecks (bs : List Byte) : Ordered 9 12 (lineSettingChecks bs) :=
  (((ordered_nil 12 12).check (by decide)).check (by decide)).check (by decide)

theorem ordered_mixChecks (bs : List Byte) (slots : Nat) : Ordered 8 128 (bodyChecks bs slots .mix) := by
  have entries : Ordered 28 128 ((List.range (if slots = 2 then 8 else 3)).flatMap (tapChecks bs (byteAt bs 24)) ++
      if slots = 2 then zeroChecks bs 124 4 else []) := by
    split_ifs
    · exact (ordered_tapsChecks bs _ 8).append (ordered_zeroChecks bs (by decide)) (by decide) (by decide)
    · exact (ordered_tapsChecks bs _ 3).append (ordered_nil _ 128) (by decide) (by decide)
  have counted := ((((ordered_zeroChecks bs (lo := 25) (n := 3) (hi := 28) (by decide)).append entries (by decide)
    (by decide)).check (off := 24) (code := 15) (ok := (slots == 1 && decide (1 ≤ byteAt bs 24) && decide (byteAt bs 24 ≤ 3)) ||
      (slots == 2 && decide (4 ≤ byteAt bs 24) && decide (byteAt bs 24 ≤ 8))) (by decide)).check (off := 20) (code := 5)
      (ok := decide (field bs 20 4 ≤ 4000000)) (by decide)).check (off := 16) (code := 4)
      (ok := decide (1 ≤ field bs 16 4) && decide (field bs 16 4 ≤ 65536)) (by decide)
  obtain ⟨code, ok, hfirst, hcode⟩ : ∃ code ok, (if flagBit bs 3 then (⟨8, 2, field bs 8 8 == 0⟩ : FieldCheck)
      else alignCheck bs 8 4) = ⟨8, code, ok⟩ ∧ 2 ≤ code ∧ code ≤ 18 := by
    split_ifs
    · exact ⟨2, _, rfl, by decide⟩
    · exact ⟨6, _, rfl, by decide⟩
  have all := counted.check (off := 8) (code := code) (ok := ok) (by omega)
  simpa only [bodyChecks, framesCheck, waitCheck, hfirst, beq_iff_eq, List.cons_append, List.nil_append, List.append_assoc] using all

theorem ordered_bodyChecks (bs : List Byte) (slots : Nat) (kind : Kind) : Ordered 8 128 (bodyChecks bs slots kind) := by
  have zeros {lo n : Nat} (h : lo + n ≤ 128) : Ordered lo 128 (zeroChecks bs lo n) := ordered_zeroChecks bs h
  cases kind with
  | deposit => exact ((zeros (by decide)).check (by decide)).check (by decide)
  | skip => exact (ordered_zeroChecks bs (hi := 16) (by decide)).append ((zeros (by decide)).check (by decide)) (by decide) (by decide)
  | tap =>
    have reserved : Ordered 30 128 (⟨30, 2, field bs 30 2 == 0⟩ :: zeroChecks bs 34 30) := (zeros (by decide)).check (by decide)
    exact ((reserved.check (by decide)).check (by decide)).check (by decide)
  | mix => exact ordered_mixChecks bs slots
  | openLine =>
    exact (((ordered_lineSettingChecks bs).append ((zeros (by decide)).check (by decide)) (by decide) (by decide)).check
      (by decide))
  | setLine =>
    exact (((ordered_zeroChecks bs (hi := 9) (by decide)).append (ordered_lineSettingChecks bs) (by decide)
      (by decide)).append (zeros (by decide)) (by decide) (by decide))
  | closeLine => exact zeros (by decide)
  | queryLine => exact (zeros (by decide)).check (by decide)
  | queryStore => exact (zeros (by decide)).check (by decide)
  | createRing =>
    exact (((((((ordered_zeroChecks bs (hi := 16) (by decide)).append ((zeros (by decide)).check (by decide)) (by decide)
      (by decide)).check (by decide)).check (by decide)).check (by decide)).check (by decide)).check (by decide))
  | createResponse =>
    exact ((((((ordered_zeroChecks bs (hi := 16) (by decide)).append ((zeros (by decide)).check (by decide)) (by decide)
      (by decide)).check (by decide)).check (by decide)).check (by decide)).check (by decide))
  | deleteRing => exact (zeros (by decide)).check (by decide)
  | pauseRing => exact (zeros (by decide)).check (by decide)
  | resumeRing => exact (zeros (by decide)).check (by decide)
  | deleteResponse => exact (zeros (by decide)).check (by decide)

/-- Settles O8: what passes is in range kind by kind; the fields stand at rising offsets, so the first failing check is
the one of lowest offset. -/
theorem decodedRecordsAreInRange : Obligations.DecodedRecordsAreInRange := by
  refine ⟨fun k bs r h => ?_, kindOfByte_eq_some_iff, fun k bs => ⟨decodeRecord_unknown, ?_⟩⟩
  · obtain ⟨kind, hk, hc, rfl⟩ := decodeRecord_eq_record h
    exact ⟨wfBody_of_checks hc, by simpa [recordOf] using hk⟩
  rintro kind checks hkind rfl
  have hord : Ordered 0 128 (recordChecks bs kind) :=
    (ordered_headerChecks bs kind).append (ordered_bodyChecks bs _ kind) (by omega) (by omega)
  refine ⟨hord.1, fun c hc => (hord.2 c hc).2, ?_⟩
  have hclass : (k = 0 ∧ isWorkKind kind = true) ∨ (k ≠ 0 ∧ isWorkKind kind = false) ↔
      isWorkKind kind = decide (k = 0) := by
    by_cases hk : k = 0 <;> cases isWorkKind kind <;> simp [hk]
  split_ifs with hr
  · exact decodeRecord_wrongRing hkind (hclass.1 hr)
  · rw [decodeRecord_fields hkind fun h => hr (hclass.2 h)]
    constructor
    · intro before c after heq hb hc
      rw [recordChecks, heq, firstFailure_append hb hc]
    · intro hall
      rw [recordChecks, (firstFailure_eq_none_iff _).2 hall]
      refine ⟨_, rfl, kindOfBody_bodyOf bs kind, ?_, ?_, ?_⟩
      · have := field_lt bs 4 2
        simp only [recordOf, BitVec.toNat_ofNat]; omega
      · simp [recordOf, flagBit, Nat.testBit_zero]
      · simp [recordOf, flagBit, Nat.testBit_succ, Nat.testBit_zero]

end Sys2Proof

/-! PROOF. The bytes of a record decode to it (R50, R64 to R69): each field stands where decode reads it. -/

namespace Sys2Proof

/-- A byte field of a value below 256, and so on for every size. -/
theorem field_leBytes_lt {n v : Nat} (ys : List Byte) (h : v < 256 ^ n) : field (leBytes n v ++ ys) 0 n = v := by
  rw [field_leBytes_here, Nat.mod_eq_of_lt h]

section
variable (r : Record)

/-- The flags of a record as its header holds them (R64). -/
def flagsOf : Nat := boolByte r.fence + 2 * boolByte r.noIrq + flagsOfBody r.body

/-- The bytes of a record behind its header: its body, then zero bytes (R64). -/
def tailOf : List Byte :=
  bodyBytes r.body ++ List.replicate (64 * slotsOfBody r.body - (8 + (bodyBytes r.body).length)) 0

theorem encodeRecord_eq : encodeRecord r =
    leBytes 1 (kindCode (kindOfBody r.body)) ++ (leBytes 1 (slotsOfBody r.body) ++ (leBytes 2 (flagsOf r) ++
      (leBytes 2 r.tag.toNat ++ (leBytes 1 (lineByteOfBody r.body) ++ (leBytes 1 0 ++ tailOf r))))) := by
  simp only [encodeRecord, tailOf, flagsOf, List.append_assoc, List.length_append, length_leBytes]
  congr 9
  omega

theorem flagsOfBody_cases (b : Body) : flagsOfBody b = 0 ∨ flagsOfBody b = 4 ∨ flagsOfBody b = 8 := by
  unfold flagsOfBody
  split
  · split <;> simp
  all_goals simp

theorem flagsOf_lt : flagsOf r < 16 := by
  unfold flagsOf
  rcases flagsOfBody_cases r.body with h | h | h <;> rw [h] <;> cases r.fence <;> cases r.noIrq <;> decide

theorem field_encode_kind : field (encodeRecord r) 0 1 = kindCode (kindOfBody r.body) := by
  rw [encodeRecord_eq, field_leBytes_lt]
  cases kindOfBody r.body <;> decide

theorem slotsOfBody_le (b : Body) : slotsOfBody b = 1 ∨ slotsOfBody b = 2 := by
  unfold slotsOfBody
  split
  · split <;> simp
  all_goals simp

theorem field_encode_slots : field (encodeRecord r) 1 1 = slotsOfBody r.body := by
  rw [encodeRecord_eq, field_leBytes_skip _ _ _ (by decide), field_leBytes_lt]
  have := slotsOfBody_le r.body
  omega

theorem field_encode_flags : field (encodeRecord r) 2 2 = flagsOf r := by
  rw [encodeRecord_eq, field_leBytes_skip _ _ _ (by decide), field_leBytes_skip _ _ _ (by decide), field_leBytes_lt]
  have := flagsOf_lt r
  omega

theorem field_encode_tag : field (encodeRecord r) 4 2 = r.tag.toNat := by
  rw [encodeRecord_eq]
  iterate 3 rw [field_leBytes_skip _ _ _ (by decide)]
  exact field_leBytes_lt _ r.tag.isLt

theorem field_encode_line : field (encodeRecord r) 6 1 = lineByteOfBody r.body := by
  rw [encodeRecord_eq]
  iterate 4 rw [field_leBytes_skip _ _ _ (by decide)]
  refine field_leBytes_lt _ ?_
  unfold lineByteOfBody
  split <;> omega

theorem field_encode_zero : field (encodeRecord r) 7 1 = 0 := by
  rw [encodeRecord_eq]
  iterate 5 rw [field_leBytes_skip _ _ _ (by decide)]
  exact field_leBytes_lt _ (by decide)

/-- A field of a record behind its header. -/
theorem field_encode_tail {off : Nat} (n : Nat) (h : 8 ≤ off) :
    field (encodeRecord r) off n = field (tailOf r) (off - 8) n := by
  rw [encodeRecord_eq]
  iterate 6 rw [field_leBytes_skip _ _ _ (by omega)]
  congr 1

/-- The bytes behind a record's body are zero (R64). -/
theorem field_encode_padding {i : Nat} (h : 8 + (bodyBytes r.body).length ≤ i) : field (encodeRecord r) i 1 = 0 := by
  rw [field_encode_tail r 1 (by omega), tailOf, field_append_right (by omega), field_replicate_zero]

/-- The four flags of a record (R64). -/
theorem flagBits_encode : flagBit (encodeRecord r) 0 = r.fence ∧ flagBit (encodeRecord r) 1 = r.noIrq ∧
    flagBit (encodeRecord r) 2 = (flagsOfBody r.body == 4) ∧ flagBit (encodeRecord r) 3 = (flagsOfBody r.body == 8) := by
  simp only [flagBit, field_encode_flags, flagsOf]
  rcases flagsOfBody_cases r.body with h | h | h <;> rw [h] <;> cases r.fence <;> cases r.noIrq <;> decide

/-- The header of a record passes its checks (R64). -/
theorem headerChecks_encode : ∀ c ∈ headerChecks (encodeRecord r) (kindOfBody r.body), c.ok = true := by
  obtain ⟨-, -, h2, h3⟩ := flagBits_encode r
  have hlt := flagsOf_lt r
  simp only [headerChecks, List.forall_mem_append, List.forall_mem_cons, zeroChecks_ok_iff, byteAt_eq_field,
    field_encode_flags, field_encode_line, h2, h3]
  refine ⟨⟨?_, ?_, by simp⟩, fun i h7 h8 => ?_⟩
  · have htap : flagsOfBody r.body = 4 → kindOfBody r.body = .tap := by
      cases r.body <;> simp [flagsOfBody, kindOfBody]
      split <;> simp_all
    have hmix : flagsOfBody r.body = 8 → kindOfBody r.body = .mix := by
      cases r.body <;> simp [flagsOfBody, kindOfBody]
      split <;> simp
    simp only [Bool.and_eq_true, Bool.or_eq_true, decide_eq_true_eq, beq_iff_eq, Bool.not_eq_true', beq_eq_false_iff_ne]
    exact ⟨⟨hlt, by tauto⟩, by tauto⟩
  · obtain ⟨fence, noIrq, tag, body⟩ := r
    cases body with
    | mix dest => cases dest <;> simp [namesLine, kindOfBody, lineByteOfBody, h3, flagsOfBody]
    | _ => simp [namesLine, kindOfBody, lineByteOfBody]
  · obtain rfl : i = 7 := by omega
    exact field_encode_zero r

theorem byteAt_encode (i : Nat) : byteAt (encodeRecord r) i = field (encodeRecord r) i 1 := byteAt_eq_field _ _

theorem lineOf_encode {l : LineId} (h : lineByteOfBody r.body = l.val) : lineOf (encodeRecord r) = l := by
  rw [lineOf, byteAt_encode, field_encode_line, h]
  exact Fin.ofNat_val_eq_self l

theorem addrAt_encode {off : Nat} {a : HostAddr} (h : field (encodeRecord r) off 8 = a.toNat) :
    addrAt (encodeRecord r) off = a := by
  rw [addrAt, h, BitVec.ofNat_toNat, BitVec.setWidth_eq]

/-- A run of zero checks behind a record's body passes. -/
theorem padding_ok {lo n : Nat} (h : 8 + (bodyBytes r.body).length ≤ lo) :
    ∀ c ∈ zeroChecks (encodeRecord r) lo n, c.ok = true :=
  (zeroChecks_ok_iff _ _ _).2 fun i hi _ => field_encode_padding r (by omega)

end

/-! ### The fields of each kind -/

section
variable (fence noIrq : Bool) (tag : BitVec 16)

theorem fields_deposit (l : LineId) (a : HostAddr) {M : Nat} (hM : M ≤ 65536) (bs : List Byte)
    (h : bs = encodeRecord ⟨fence, noIrq, tag, .deposit l a M⟩) : field bs 8 8 = a.toNat ∧ field bs 16 4 = M := by
  have := a.isLt
  subst h
  simp only [field_encode_tail, Nat.le_refl, Nat.reduceLeDiff, tailOf, bodyBytes, List.append_assoc, Nat.reduceSub,
    field_leBytes_here, field_leBytes_skip]
  omega

theorem fields_skip (l : LineId) {M : Nat} (hM : M ≤ 65536) (bs : List Byte)
    (h : bs = encodeRecord ⟨fence, noIrq, tag, .skip l M⟩) :
    (∀ i, 8 ≤ i → i < 16 → field bs i 1 = 0) ∧ field bs 16 4 = M := by
  subst h
  refine ⟨fun i h8 h16 => ?_, ?_⟩
  · rw [field_encode_tail _ _ h8, tailOf, bodyBytes, List.append_assoc]
    exact field_leBytes_zero _ (by omega)
  · simp only [field_encode_tail, Nat.reduceLeDiff, tailOf, bodyBytes, List.append_assoc, Nat.reduceSub,
      field_leBytes_here, field_leBytes_skip]
    omega

theorem fields_tap (l : LineId) (a : HostAddr) {N wait fld : Nat} (absolute : Bool) (mask : BitVec 16)
    (hN : N ≤ 65536) (hw : wait ≤ 4000000) (hf : fld < 2 ^ 48) (bs : List Byte)
    (h : bs = encodeRecord ⟨fence, noIrq, tag, .tap l a N wait absolute fld mask⟩) :
    field bs 8 8 = a.toNat ∧ field bs 16 4 = N ∧ field bs 20 4 = wait ∧ field bs 24 6 = fld ∧ field bs 30 2 = 0 ∧
      field bs 32 2 = mask.toNat := by
  have := a.isLt
  have := mask.isLt
  subst h
  simp only [field_encode_tail, Nat.le_refl, Nat.reduceLeDiff, tailOf, bodyBytes, List.append_assoc, Nat.reduceSub,
    field_leBytes_here, field_leBytes_skip]
  omega

theorem length_tapBytesOf (t : MixTap) : (tapBytesOf t).length = 12 := by simp [tapBytesOf]

/-- The fields of a MIX record before its tap entries (R67). -/
theorem fields_mix (dest : Option LineId) (a : HostAddr) {N wait : Nat} {taps : List MixTap}
    (hN : N ≤ 65536) (hw : wait ≤ 4000000) (ht : taps.length ≤ 8) (bs : List Byte)
    (h : bs = encodeRecord ⟨fence, noIrq, tag, .mix dest a N wait taps⟩) :
    field bs 8 8 = a.toNat ∧ field bs 16 4 = N ∧ field bs 20 4 = wait ∧ field bs 24 1 = taps.length ∧
      ∀ i, 25 ≤ i → i < 28 → field bs i 1 = 0 := by
  have := a.isLt
  subst h
  refine ⟨?_, ?_, ?_, ?_, fun i h25 h28 => ?_⟩
  rotate_left 4
  · rw [field_encode_tail _ _ (by omega)]
    simp only [tailOf, bodyBytes, List.append_assoc]
    iterate 4 rw [field_leBytes_skip _ _ _ (by omega)]
    exact field_leBytes_zero _ (by omega)
  all_goals
    simp only [field_encode_tail, Nat.le_refl, Nat.reduceLeDiff, tailOf, bodyBytes, List.append_assoc, Nat.reduceSub,
      field_leBytes_here, field_leBytes_skip]
    omega

/-- The fields of a MIX's tap entry (R67). -/
theorem fields_mixTap (dest : Option LineId) (a : HostAddr) (N wait : Nat) {taps : List MixTap} (bs : List Byte)
    (h : bs = encodeRecord ⟨fence, noIrq, tag, .mix dest a N wait taps⟩) {i : Nat} (hi : i < taps.length) (j : Nat) {n : Nat}
    (hj : j + n ≤ 12) : field bs (tapOffset i + j) n = field (tapBytesOf taps[i]) j n := by
  subst h
  rw [field_encode_tail _ _ (by unfold tapOffset; omega)]
  simp only [tailOf, bodyBytes, List.append_assoc]
  iterate 5 rw [field_leBytes_skip _ _ _ (by unfold tapOffset; omega)]
  rw [show tapOffset i + j - 8 - 8 - 4 - 4 - 1 - 3 = 12 * i + j by unfold tapOffset; omega]
  exact field_flatMap length_tapBytesOf taps _ hi j hj

theorem fields_tapBytesOf (t : MixTap) (ht : t.field < 2 ^ 48) :
    field (tapBytesOf t) 0 1 = t.line.val ∧ field (tapBytesOf t) 1 1 = boolByte t.absolute ∧
      field (tapBytesOf t) 2 2 = t.gain.toNat ∧ field (tapBytesOf t) 4 6 = t.field ∧
      field (tapBytesOf t) 10 1 = 0 ∧ field (tapBytesOf t) 11 1 = 0 := by
  have h1 := t.line.isLt
  have h2 : boolByte t.absolute ≤ 1 := by cases t.absolute <;> decide
  have h3 := t.gain.isLt
  have h4 := field_leBytes_zero (n := 2) (off := 0) (k := 1) [] (by decide)
  have h5 := field_leBytes_zero (n := 2) (off := 1) (k := 1) [] (by decide)
  rw [List.append_nil] at h4 h5
  simp only [tapBytesOf, List.append_assoc, field_leBytes_here, field_leBytes_skip, Nat.le_refl, Nat.reduceLeDiff,
    Nat.reduceSub, h4, h5, and_true]
  omega

theorem boolByte_eq_one (b : Bool) : (boolByte b == 1) = b := by cases b <;> rfl

theorem boolByte_le (b : Bool) : boolByte b ≤ 1 := by cases b <;> decide

/-- A tap entry of a MIX decodes to its tap (R67). -/
theorem tapOf_encode (dest : Option LineId) (a : HostAddr) (N wait : Nat) {taps : List MixTap} (bs : List Byte)
    (h : bs = encodeRecord ⟨fence, noIrq, tag, .mix dest a N wait taps⟩) {i : Nat} (hi : i < taps.length)
    (ht : taps[i].field < 2 ^ 48) : tapOf bs i = taps[i] := by
  have entry := fun j n => fields_mixTap fence noIrq tag dest a N wait bs h hi j (n := n)
  obtain ⟨h0, h1, h2, h4, -, -⟩ := fields_tapBytesOf taps[i] ht
  have e0 : field bs (tapOffset i) 1 = _ := entry 0 1 (by decide)
  unfold tapOf
  rw [byteAt_eq_field, byteAt_eq_field, e0, entry 1 1 (by decide), entry 2 2 (by decide), entry 4 6 (by decide), h0, h1,
    h2, h4, boolByte_eq_one, BitVec.ofNat_toNat, BitVec.setWidth_eq]
  congr 1
  exact Fin.ofNat_val_eq_self _

theorem fields_openLine (l : LineId) {channels C : Nat} (policy : Policy) (lap : LapSetting) (hc : channels ≤ 16)
    (hC : C ≤ 16777216) (bs : List Byte)
    (h : bs = encodeRecord ⟨fence, noIrq, tag, .openLine l channels policy lap C⟩) :
    field bs 8 1 = channels ∧ field bs 9 1 = policyByte policy ∧ field bs 10 1 = boolByte lap.on ∧
      field bs 11 1 = lap.target.val ∧ field bs 12 4 = C := by
  have h1 : policyByte policy ≤ 1 := by cases policy <;> decide
  have h2 := boolByte_le lap.on
  have h3 := lap.target.isLt
  subst h
  simp only [field_encode_tail, Nat.le_refl, Nat.reduceLeDiff, tailOf, bodyBytes, List.append_assoc, Nat.reduceSub,
    field_leBytes_here, field_leBytes_skip]
  omega

theorem fields_setLine (l : LineId) (policy : Policy) (lap : LapSetting) (bs : List Byte)
    (h : bs = encodeRecord ⟨fence, noIrq, tag, .setLine l policy lap⟩) :
    field bs 8 1 = 0 ∧ field bs 9 1 = policyByte policy ∧ field bs 10 1 = boolByte lap.on ∧
      field bs 11 1 = lap.target.val := by
  have h1 : policyByte policy ≤ 1 := by cases policy <;> decide
  have h2 := boolByte_le lap.on
  have h3 := lap.target.isLt
  subst h
  simp only [field_encode_tail, Nat.le_refl, Nat.reduceLeDiff, tailOf, bodyBytes, List.append_assoc, Nat.reduceSub,
    field_leBytes_here, field_leBytes_skip]
  omega

theorem fields_createRing (k : RingId) {logSize priority window : Nat} (resp : RespId) (base : HostAddr)
    (hs : logSize ≤ 12) (hp : priority ≤ 3) (hw : window ≤ 32) (bs : List Byte)
    (h : bs = encodeRecord ⟨fence, noIrq, tag, .createRing k logSize priority window resp base⟩) :
    field bs 8 1 = k.val ∧ field bs 9 1 = logSize ∧ field bs 10 1 = priority ∧ field bs 11 1 = window ∧
      field bs 12 1 = resp.val ∧ (∀ i, 13 ≤ i → i < 16 → field bs i 1 = 0) ∧ field bs 16 8 = base.toNat := by
  have h1 := k.isLt
  have h2 := resp.isLt
  have h3 := base.isLt
  subst h
  refine ⟨?_, ?_, ?_, ?_, ?_, fun i h13 h16 => ?_, ?_⟩
  rotate_left 5
  · rw [field_encode_tail _ _ (by omega)]
    simp only [tailOf, bodyBytes, List.append_assoc]
    iterate 5 rw [field_leBytes_skip _ _ _ (by omega)]
    exact field_leBytes_zero _ (by omega)
  all_goals
    simp only [field_encode_tail, Nat.le_refl, Nat.reduceLeDiff, tailOf, bodyBytes, List.append_assoc, Nat.reduceSub,
      field_leBytes_here, field_leBytes_skip]
    omega

theorem fields_createResponse (k : RespId) {logSize count time : Nat} (interrupt : Bool) (base : HostAddr)
    (hs : logSize ≤ 13) (hc : count ≤ 255) (ht : time ≤ 65535) (bs : List Byte)
    (h : bs = encodeRecord ⟨fence, noIrq, tag, .createResponse k logSize count interrupt time base⟩) :
    field bs 8 1 = k.val ∧ field bs 9 1 = logSize ∧ field bs 10 1 = count ∧ field bs 11 1 = boolByte interrupt ∧
      field bs 12 2 = time ∧ (∀ i, 14 ≤ i → i < 16 → field bs i 1 = 0) ∧ field bs 16 8 = base.toNat := by
  have h1 := k.isLt
  have h2 := boolByte_le interrupt
  have h3 := base.isLt
  subst h
  refine ⟨?_, ?_, ?_, ?_, ?_, fun i h13 h16 => ?_, ?_⟩
  rotate_left 5
  · rw [field_encode_tail _ _ (by omega)]
    simp only [tailOf, bodyBytes, List.append_assoc]
    iterate 5 rw [field_leBytes_skip _ _ _ (by omega)]
    exact field_leBytes_zero _ (by omega)
  all_goals
    simp only [field_encode_tail, Nat.le_refl, Nat.reduceLeDiff, tailOf, bodyBytes, List.append_assoc, Nat.reduceSub,
      field_leBytes_here, field_leBytes_skip]
    omega

/-- The fields of a body that is a host address alone (QUERY_LINE, QUERY_STORE). -/
theorem field_address_body {b : Body} {a : HostAddr} (hb : bodyBytes b = leBytes 8 a.toNat) :
    field (encodeRecord ⟨fence, noIrq, tag, b⟩) 8 8 = a.toNat := by
  rw [field_encode_tail _ _ le_rfl, tailOf, hb]
  exact field_leBytes_lt _ a.isLt

/-- The fields of a body that is a ring number alone (DELETE_RING, PAUSE_RING, RESUME_RING, DELETE_RESPONSE). -/
theorem field_ring_body {b : Body} {k : Nat} (hk : k < 256) (hb : bodyBytes b = leBytes 1 k) :
    field (encodeRecord ⟨fence, noIrq, tag, b⟩) 8 1 = k := by
  rw [field_encode_tail _ _ le_rfl, tailOf, hb]
  exact field_leBytes_lt _ hk

end

/-! ### Every kind decodes back -/

theorem lt_of_wfPosition {n : Nat} (h : wfPosition n = true) : n < 2 ^ 48 := by
  have := of_decide_eq_true h
  unfold Config.maxPosition at this
  omega

/-- The checks of a record's body pass and its fields are the body's (R66 to R69). -/
def BodyDecodes (bs : List Byte) (b : Body) : Prop :=
  (∀ c ∈ bodyChecks bs (byteAt bs 1) (kindOfBody b), c.ok = true) ∧ bodyOf bs (kindOfBody b) = b

section
variable (fence noIrq : Bool) (tag : BitVec 16)

theorem bodyDecodes_deposit (l : LineId) (a : HostAddr) (M : Nat) (h : wfBody (.deposit l a M) = true) :
    BodyDecodes (encodeRecord ⟨fence, noIrq, tag, .deposit l a M⟩) (.deposit l a M) := by
  simp only [wfBody, wfAligned, wfFrames, Bool.and_eq_true, beq_iff_eq, decide_eq_true_eq] at h
  obtain ⟨ha, hM1, hM2⟩ := h
  obtain ⟨h8, h16⟩ := fields_deposit fence noIrq tag l a hM2 _ rfl
  refine ⟨?_, ?_⟩
  · simp only [kindOfBody, bodyChecks, List.forall_mem_cons, alignCheck, framesCheck, h8, h16]
    exact ⟨by simpa using ha, by simp [hM1, hM2], padding_ok _ (by simp [bodyBytes])⟩
  · have hl : lineOf (encodeRecord ⟨fence, noIrq, tag, .deposit l a M⟩) = l := lineOf_encode _ rfl
    simp only [kindOfBody, bodyOf, hl, addrAt_encode _ h8, h16]

theorem bodyDecodes_skip (l : LineId) (M : Nat) (h : wfBody (.skip l M) = true) :
    BodyDecodes (encodeRecord ⟨fence, noIrq, tag, .skip l M⟩) (.skip l M) := by
  simp only [wfBody, wfFrames, Bool.and_eq_true, decide_eq_true_eq] at h
  obtain ⟨hM1, hM2⟩ := h
  obtain ⟨h8, h16⟩ := fields_skip fence noIrq tag l hM2 _ rfl
  refine ⟨?_, ?_⟩
  · simp only [kindOfBody, bodyChecks, List.forall_mem_append, List.forall_mem_cons, framesCheck, h16]
    exact ⟨(zeroChecks_ok_iff _ _ _).2 h8, by simp [hM1, hM2], padding_ok _ (by simp [bodyBytes])⟩
  · have hl : lineOf (encodeRecord ⟨fence, noIrq, tag, .skip l M⟩) = l := lineOf_encode _ rfl
    simp only [kindOfBody, bodyOf, hl, h16]

theorem bodyDecodes_tap (l : LineId) (a : HostAddr) (N wait : Nat) (absolute : Bool) (fld : Nat) (mask : BitVec 16)
    (h : wfBody (.tap l a N wait absolute fld mask) = true) :
    BodyDecodes (encodeRecord ⟨fence, noIrq, tag, .tap l a N wait absolute fld mask⟩)
      (.tap l a N wait absolute fld mask) := by
  simp only [wfBody, wfAligned, wfFrames, wfWait, Bool.and_eq_true, beq_iff_eq, decide_eq_true_eq] at h
  obtain ⟨⟨⟨ha, hN1, hN2⟩, hw⟩, hf⟩ := h
  have hl : lineOf (encodeRecord ⟨fence, noIrq, tag, .tap l a N wait absolute fld mask⟩) = l := lineOf_encode _ rfl
  obtain ⟨h8, h16, h20, h24, h30, h32⟩ := fields_tap fence noIrq tag l a absolute mask hN2 hw (lt_of_wfPosition hf) _ rfl
  obtain ⟨-, -, hflag, -⟩ := flagBits_encode ⟨fence, noIrq, tag, .tap l a N wait absolute fld mask⟩
  refine ⟨?_, ?_⟩
  · simp only [kindOfBody, bodyChecks, List.forall_mem_append, List.forall_mem_cons, alignCheck, framesCheck, waitCheck,
      h8, h16, h20, h30]
    exact ⟨⟨by simpa using ha, by simp [hN1, hN2], by simpa using hw, rfl, by simp⟩, padding_ok _ (by simp [bodyBytes])⟩
  · simp only [kindOfBody, bodyOf, hl, addrAt_encode _ h8, h16, h20, h24, h32, hflag, flagsOfBody,
      BitVec.ofNat_toNat, BitVec.setWidth_eq]
    cases absolute <;> rfl

theorem bodyDecodes_mix (dest : Option LineId) (a : HostAddr) (N wait : Nat) (taps : List MixTap)
    (h : wfBody (.mix dest a N wait taps) = true) :
    BodyDecodes (encodeRecord ⟨fence, noIrq, tag, .mix dest a N wait taps⟩) (.mix dest a N wait taps) := by
  simp only [wfBody, wfFrames, wfWait, Bool.and_eq_true, decide_eq_true_eq, List.all_eq_true] at h
  obtain ⟨⟨⟨⟨⟨ha, hN1, hN2⟩, hw⟩, ht1⟩, ht8⟩, hpos⟩ := h
  have hf : ∀ t ∈ taps, t.field < 2 ^ 48 := fun t ht => lt_of_wfPosition (hpos t ht)
  obtain ⟨h8, h16, h20, h24, h25⟩ := fields_mix fence noIrq tag dest a hN2 hw ht8 _ rfl
  obtain ⟨-, -, -, hflag⟩ := flagBits_encode ⟨fence, noIrq, tag, .mix dest a N wait taps⟩
  have hslots := field_encode_slots ⟨fence, noIrq, tag, .mix dest a N wait taps⟩
  have entry := fun i (hi : i < taps.length) j n => fields_mixTap fence noIrq tag dest a N wait _ rfl hi j (n := n)
  have hlen : (bodyBytes (.mix dest a N wait taps)).length = 20 + 12 * taps.length := by
    simp only [bodyBytes, List.length_append, length_leBytes, length_flatMap_of_length length_tapBytesOf]
  have hpad := fun i => field_encode_padding ⟨fence, noIrq, tag, .mix dest a N wait taps⟩ (i := i)
  simp only [hlen] at hpad
  generalize hbs : encodeRecord ⟨fence, noIrq, tag, .mix dest a N wait taps⟩ = bs at *
  have htapFields : ∀ i (hi : i < taps.length), field bs (tapOffset i + 1) 1 ≤ 1 ∧ field bs (tapOffset i + 10) 1 = 0 ∧
      field bs (tapOffset i + 11) 1 = 0 := fun i hi => by
    obtain ⟨-, e1, -, -, e10, e11⟩ := fields_tapBytesOf taps[i] (hf _ (List.getElem_mem hi))
    rw [entry i hi 1 1 (by decide), entry i hi 10 1 (by decide), entry i hi 11 1 (by decide), e1, e10, e11]
    exact ⟨boolByte_le _, rfl, rfl⟩
  have htaps : ∀ i, ∀ c ∈ tapChecks bs taps.length i, c.ok = true := fun i => by
    unfold tapChecks
    split_ifs with hi
    · obtain ⟨e1, e10, e11⟩ := htapFields i hi
      refine List.forall_mem_cons.2 ⟨by simpa [byteAt_eq_field] using e1, (zeroChecks_ok_iff _ _ _).2 fun j hj hj' => ?_⟩
      obtain rfl | rfl : j = tapOffset i + 10 ∨ j = tapOffset i + 11 := by omega
      · exact e10
      · exact e11
    · refine (zeroChecks_ok_iff _ _ _).2 fun j hj hj' => hpad j ?_
      unfold tapOffset at hj; omega
  refine ⟨?_, ?_⟩
  · have hcount : taps.length ≤ 3 ∧ slotsOfBody (.mix dest a N wait taps) = 1 ∨
        4 ≤ taps.length ∧ slotsOfBody (.mix dest a N wait taps) = 2 := by
      by_cases h3 : taps.length ≤ 3
      · exact .inl ⟨h3, by simp [slotsOfBody, h3]⟩
      · exact .inr ⟨by omega, by simp [slotsOfBody, h3]⟩
    simp only [kindOfBody, bodyChecks, List.forall_mem_append, List.forall_mem_cons, framesCheck, waitCheck,
      byteAt_eq_field, h16, h20, h24, hslots]
    refine ⟨⟨⟨⟨?_, by simp [hN1, hN2], by simpa using hw, ?_, by simp⟩, (zeroChecks_ok_iff _ _ _).2 h25⟩, ?_⟩, ?_⟩
    · rw [hflag]
      cases dest with
      | none => simpa [flagsOfBody, alignCheck, h8, wfAligned] using ha
      | some d => simp_all [flagsOfBody]
    · rcases hcount with ⟨h3, hs⟩ | ⟨h4, hs⟩ <;> simp [hs] <;> omega
    · intro c hc
      obtain ⟨i, -, hi⟩ := List.mem_flatMap.1 hc
      exact htaps i c hi
    · split_ifs
      · exact (zeroChecks_ok_iff _ _ _).2 fun j hj _ => hpad j (by omega)
      · simp
  · have hlist : (List.range taps.length).map (tapOf bs) = taps := by
      refine List.ext_getElem (by simp) fun i hi hi' => ?_
      simp only [List.getElem_map, List.getElem_range]
      exact tapOf_encode fence noIrq tag dest a N wait bs hbs.symm hi' (hf _ (List.getElem_mem hi'))
    have hdest : (if flagBit bs 3 = true then some (lineOf bs) else none) = dest := by
      rw [hflag, ← hbs]
      cases dest with
      | none => rfl
      | some d =>
        have hl : lineOf (encodeRecord ⟨fence, noIrq, tag, .mix (some d) a N wait taps⟩) = d := lineOf_encode _ rfl
        simp [flagsOfBody, hl]
    have haddr : addrAt bs 8 = a := hbs ▸ addrAt_encode _ (hbs.symm ▸ h8)
    simp only [kindOfBody, bodyOf, hdest, haddr, h16, h20, byteAt_eq_field, h24, hlist]

/-- The policy and lap settings of a record pass their checks and are what decode reads (R68). -/
theorem lineSettings_decode {bs : List Byte} {policy : Policy} {lap : LapSetting} (hl : wfLap lap = true)
    (h9 : field bs 9 1 = policyByte policy) (h10 : field bs 10 1 = boolByte lap.on)
    (h11 : field bs 11 1 = lap.target.val) :
    (∀ c ∈ lineSettingChecks bs, c.ok = true) ∧ policyOf (byteAt bs 9) = policy ∧ lapOf bs = lap := by
  have h1 : policyByte policy ≤ 1 := by cases policy <;> decide
  have h2 := boolByte_le lap.on
  have h3 := lap.target.isLt
  simp only [lineSettingChecks, rangeCheck, lapOf, byteAt_eq_field, h9, h10, h11, boolByte_eq_one]
  refine ⟨?_, by cases policy <;> rfl, ?_⟩
  · simp only [List.forall_mem_cons, Nat.zero_le, decide_true, Bool.true_and, decide_eq_true_eq, Bool.and_eq_true,
      Bool.or_eq_true, beq_iff_eq]
    refine ⟨h1, h2, ⟨by omega, ?_⟩, by simp⟩
    rw [wfLap, Bool.or_eq_true, decide_eq_true_eq] at hl
    exact hl.imp id fun h => by rw [h]; rfl
  · rw [Fin.ofNat_val_eq_self]

theorem bodyDecodes_openLine (l : LineId) (channels : Nat) (policy : Policy) (lap : LapSetting) (C : Nat)
    (h : wfBody (.openLine l channels policy lap C) = true) :
    BodyDecodes (encodeRecord ⟨fence, noIrq, tag, .openLine l channels policy lap C⟩)
      (.openLine l channels policy lap C) := by
  simp only [wfBody, Bool.and_eq_true, decide_eq_true_eq] at h
  obtain ⟨⟨⟨⟨hc1, hc2⟩, hlap⟩, hC1⟩, hC2⟩ := h
  have hl : lineOf (encodeRecord ⟨fence, noIrq, tag, .openLine l channels policy lap C⟩) = l := lineOf_encode _ rfl
  obtain ⟨h8, h9, h10, h11, h12⟩ := fields_openLine fence noIrq tag l policy lap hc2 hC2 _ rfl
  obtain ⟨hok, hpol, hlp⟩ := lineSettings_decode hlap h9 h10 h11
  refine ⟨?_, ?_⟩
  · simp only [kindOfBody, bodyChecks, List.forall_mem_append, List.forall_mem_cons, rangeCheck, byteAt_eq_field, h8, h12]
    exact ⟨⟨by simp [hc1, hc2], hok⟩, by simp [hC1, hC2], padding_ok _ (by simp [bodyBytes])⟩
  · rw [byteAt_eq_field] at hpol
    simp only [kindOfBody, bodyOf, hl, hpol, hlp, byteAt_eq_field, h8, h12]

theorem bodyDecodes_setLine (l : LineId) (policy : Policy) (lap : LapSetting)
    (h : wfBody (.setLine l policy lap) = true) :
    BodyDecodes (encodeRecord ⟨fence, noIrq, tag, .setLine l policy lap⟩) (.setLine l policy lap) := by
  have hl : lineOf (encodeRecord ⟨fence, noIrq, tag, .setLine l policy lap⟩) = l := lineOf_encode _ rfl
  obtain ⟨h8, h9, h10, h11⟩ := fields_setLine fence noIrq tag l policy lap _ rfl
  obtain ⟨hok, hpol, hlp⟩ := lineSettings_decode h h9 h10 h11
  refine ⟨?_, ?_⟩
  · simp only [kindOfBody, bodyChecks, List.forall_mem_append]
    refine ⟨⟨(zeroChecks_ok_iff _ _ _).2 fun i hi hi' => ?_, hok⟩, padding_ok _ (by simp [bodyBytes])⟩
    obtain rfl : i = 8 := by omega
    exact h8
  · simp only [kindOfBody, bodyOf, hl, hpol, hlp]

theorem bodyDecodes_createRing (k : RingId) (logSize priority window : Nat) (resp : RespId) (base : HostAddr)
    (h : wfBody (.createRing k logSize priority window resp base) = true) :
    BodyDecodes (encodeRecord ⟨fence, noIrq, tag, .createRing k logSize priority window resp base⟩)
      (.createRing k logSize priority window resp base) := by
  simp only [wfBody, wfAligned, Bool.and_eq_true, decide_eq_true_eq, beq_iff_eq] at h
  obtain ⟨⟨⟨⟨⟨⟨hk, hs1⟩, hs2⟩, hp⟩, hw1⟩, hw2⟩, hb⟩ := h
  obtain ⟨h8, h9, h10, h11, h12, h13, h16⟩ := fields_createRing fence noIrq tag k resp base hs2 hp hw2 _ rfl
  have hk1 : 1 ≤ k.val ∧ k.val ≤ 15 := by have := Fin.val_ne_of_ne hk; have := k.isLt; simp at *; omega
  have hr := resp.isLt
  refine ⟨?_, ?_⟩
  · simp only [kindOfBody, bodyChecks, List.forall_mem_append, List.forall_mem_cons, rangeCheck, alignCheck,
      byteAt_eq_field, h8, h9, h10, h11, h12, h16]
    exact ⟨⟨⟨by simp [hk1], by simp [hs1, hs2], by simp [hp], by simp [hw1, hw2], by simp; omega, by simp⟩,
      (zeroChecks_ok_iff _ _ _).2 h13⟩, by simp [hb], padding_ok _ (by simp [bodyBytes])⟩
  · simp only [kindOfBody, bodyOf, byteAt_eq_field, h8, h9, h10, h11, h12, addrAt_encode _ h16, Fin.ofNat_val_eq_self]

theorem bodyDecodes_createResponse (k : RespId) (logSize count : Nat) (interrupt : Bool) (time : Nat) (base : HostAddr)
    (h : wfBody (.createResponse k logSize count interrupt time base) = true) :
    BodyDecodes (encodeRecord ⟨fence, noIrq, tag, .createResponse k logSize count interrupt time base⟩)
      (.createResponse k logSize count interrupt time base) := by
  simp only [wfBody, wfAligned, Bool.and_eq_true, decide_eq_true_eq, beq_iff_eq] at h
  obtain ⟨⟨⟨⟨⟨⟨hk, hs1⟩, hs2⟩, hc1⟩, hc2⟩, ht⟩, hb⟩ := h
  obtain ⟨h8, h9, h10, h11, h12, h14, h16⟩ := fields_createResponse fence noIrq tag k interrupt base hs2 hc2 ht _ rfl
  have hk1 : 1 ≤ k.val ∧ k.val ≤ 3 := by have := Fin.val_ne_of_ne hk; have := k.isLt; simp at *; omega
  have hi := boolByte_le interrupt
  refine ⟨?_, ?_⟩
  · simp only [kindOfBody, bodyChecks, List.forall_mem_append, List.forall_mem_cons, rangeCheck, alignCheck,
      byteAt_eq_field, h8, h9, h10, h11, h16]
    exact ⟨⟨⟨by simp [hk1], by simp [hs1, hs2], by simp [hc1, hc2], by simp [hi], by simp⟩,
      (zeroChecks_ok_iff _ _ _).2 h14⟩, by simp [hb], padding_ok _ (by simp [bodyBytes])⟩
  · simp only [kindOfBody, bodyOf, byteAt_eq_field, h8, h9, h10, h11, h12, addrAt_encode _ h16, Fin.ofNat_val_eq_self,
      boolByte_eq_one]

/-- A ring number other than 0 alone in a body passes its check and is read back. -/
theorem ring_decodes {n : Nat} {k : Fin (n + 1)} (hn : n < 256) {b : Body} (hk : k ≠ 0)
    (hb : bodyBytes b = leBytes 1 k.val) (bs : List Byte) (h : bs = encodeRecord ⟨fence, noIrq, tag, b⟩) :
    (∀ c ∈ rangeCheck bs 8 11 1 n :: zeroChecks bs 9 55, c.ok = true) ∧ Fin.ofNat (n + 1) (byteAt bs 8) = k := by
  have h8 := field_ring_body fence noIrq tag (k := k.val) (by omega) hb
  subst h
  simp only [rangeCheck, byteAt_eq_field, h8, List.forall_mem_cons, Fin.ofNat_val_eq_self]
  have hk1 : 1 ≤ k.val := Nat.one_le_iff_ne_zero.2 fun h => hk (Fin.ext h)
  have hk2 := k.isLt
  exact ⟨⟨by simp; omega, padding_ok _ (by simp [hb])⟩, trivial⟩

/-- The fields of every well-formed record are read back (R66 to R69). -/
theorem bodyDecodes_encode (b : Body) (h : wfBody b = true) : BodyDecodes (encodeRecord ⟨fence, noIrq, tag, b⟩) b := by
  cases b with
  | deposit l a M => exact bodyDecodes_deposit fence noIrq tag l a M h
  | skip l M => exact bodyDecodes_skip fence noIrq tag l M h
  | tap l a N wait absolute fld mask => exact bodyDecodes_tap fence noIrq tag l a N wait absolute fld mask h
  | mix dest a N wait taps => exact bodyDecodes_mix fence noIrq tag dest a N wait taps h
  | openLine l channels policy lap C => exact bodyDecodes_openLine fence noIrq tag l channels policy lap C h
  | closeLine l =>
    have hl : lineOf (encodeRecord ⟨fence, noIrq, tag, .closeLine l⟩) = l := lineOf_encode _ rfl
    exact ⟨padding_ok _ (by simp [bodyBytes]), by simp only [kindOfBody, bodyOf, hl]⟩
  | setLine l policy lap => exact bodyDecodes_setLine fence noIrq tag l policy lap h
  | queryLine l a =>
    have hl : lineOf (encodeRecord ⟨fence, noIrq, tag, .queryLine l a⟩) = l := lineOf_encode _ rfl
    have h8 := field_address_body fence noIrq tag (b := .queryLine l a) (a := a) rfl
    refine ⟨List.forall_mem_cons.2 ⟨?_, padding_ok _ (by simp [bodyBytes])⟩, ?_⟩
    · simpa [alignCheck, h8, wfBody, wfAligned] using h
    · simp only [kindOfBody, bodyOf, hl, addrAt_encode _ h8]
  | queryStore a =>
    have h8 := field_address_body fence noIrq tag (b := .queryStore a) (a := a) rfl
    refine ⟨List.forall_mem_cons.2 ⟨?_, padding_ok _ (by simp [bodyBytes])⟩, ?_⟩
    · simpa [alignCheck, h8, wfBody, wfAligned] using h
    · simp only [kindOfBody, bodyOf, addrAt_encode _ h8]
  | createRing k logSize priority window resp base =>
    exact bodyDecodes_createRing fence noIrq tag k logSize priority window resp base h
  | deleteRing k =>
    obtain ⟨hok, hk⟩ := ring_decodes fence noIrq tag (b := .deleteRing k) (by decide) (of_decide_eq_true h) rfl _ rfl
    exact ⟨hok, by simp only [kindOfBody, bodyOf, hk]⟩
  | pauseRing k =>
    obtain ⟨hok, hk⟩ := ring_decodes fence noIrq tag (b := .pauseRing k) (by decide) (of_decide_eq_true h) rfl _ rfl
    exact ⟨hok, by simp only [kindOfBody, bodyOf, hk]⟩
  | resumeRing k =>
    obtain ⟨hok, hk⟩ := ring_decodes fence noIrq tag (b := .resumeRing k) (by decide) (of_decide_eq_true h) rfl _ rfl
    exact ⟨hok, by simp only [kindOfBody, bodyOf, hk]⟩
  | createResponse k logSize count interrupt time base =>
    exact bodyDecodes_createResponse fence noIrq tag k logSize count interrupt time base h
  | deleteResponse k =>
    obtain ⟨hok, hk⟩ := ring_decodes fence noIrq tag (b := .deleteResponse k) (by decide) (of_decide_eq_true h) rfl _ rfl
    exact ⟨hok, by simp only [kindOfBody, bodyOf, hk]⟩

end

/-- Settles O7: the header and, kind by kind, the body are read back from where they stand. -/
theorem recordsDecodeBack : Obligations.RecordsDecodeBack := by
  rintro k ⟨fence, noIrq, tag, body⟩ hwf hring
  have hkind : kindOfByte ((encodeRecord ⟨fence, noIrq, tag, body⟩).getD 0 0) = some (kindOfBody body) :=
    (kindOfByte_eq_some_iff _ _).2 ((byteAt_encode _ 0).trans (field_encode_kind _))
  have hclass : isWorkKind (kindOfBody body) ≠ decide (k = 0) := by
    dsimp only at hring
    rw [hring]; by_cases hk : k = 0 <;> simp [hk]
  obtain ⟨hbody, hfields⟩ := bodyDecodes_encode fence noIrq tag body hwf
  obtain ⟨hfence, hirq, -, -⟩ := flagBits_encode ⟨fence, noIrq, tag, body⟩
  rw [decodeRecord_fields hkind hclass, recordChecks, (firstFailure_eq_none_iff _).2
    (List.forall_mem_append.2 ⟨headerChecks_encode ⟨fence, noIrq, tag, body⟩, hbody⟩)]
  simp only [recordOf, hfence, hirq, hfields, field_encode_tag, BitVec.ofNat_toNat, BitVec.setWidth_eq]

end Sys2Proof

/-! PROOF. What every update of the state keeps: the laws of the lines, of the store and its blocks, of the records, of
the contexts, of the response rings, of the host write queue, and the idle period. One relation says it, so that a
command keeps every law by the updates it is made of. -/

namespace Sys2Proof.Machine

/-! ### The relation -/

/-- A line entry goes its way: a FREE line stays FREE, a CLOSING one does not open again, and while it is not FREE its
W and F do not fall and its geometry stays. Only OPEN_LINE does otherwise (R6). -/
def LineGrows (l x : Line) : Prop :=
  (l.state = .free → x.state = .free) ∧ (l.state = .closing → x.state ≠ .opened) ∧
    (x.state ≠ .free → l.w ≤ x.w ∧ l.f ≤ x.f ∧ x.channels = l.channels ∧ x.cap = l.cap ∧ x.extents = l.extents)

theorem LineGrows.refl (l : Line) : LineGrows l l := ⟨id, fun h => by simp [h], fun _ => ⟨le_rfl, le_rfl, rfl, rfl, rfl⟩⟩

theorem LineGrows.trans {l x y : Line} (h : LineGrows l x) (h' : LineGrows x y) : LineGrows l y := by
  obtain ⟨hf, hc, hg⟩ := h
  obtain ⟨hf', hc', hg'⟩ := h'
  refine ⟨fun e => hf' (hf e), fun e e' => ?_, fun e => ?_⟩
  · cases hx : x.state with
    | free => rw [hf' hx] at e'; cases e'
    | opened => exact hc e hx
    | closing => exact hc' hx e'
  · obtain ⟨w1, f1, a1, b1, c1⟩ := hg fun hx => e (hf' hx)
    obtain ⟨w2, f2, a2, b2, c2⟩ := hg' e
    exact ⟨w1.trans w2, f1.trans f2, a2.trans a1, b2.trans b1, c2.trans c1⟩

/-- The laws but those of the lines are kept, and no idle period begins. -/
structure KeepsLaws (s t : State) : Prop where
  store : StoreOk s → StoreOk t
  blocks : RecordsOk s → BlocksOk s → BlocksOk t
  records : RecordsOk s → RecordsOk t
  contexts : ContextsOk s → ContextsOk t
  resp : RespOk s → RespOk t
  queue : QueueOk s → QueueOk t
  idling : ∀ d p, t.host.quiesce = .idling d p → s.host.quiesce = .idling d p

theorem KeepsLaws.trans {s t u : State} (h : KeepsLaws s t) (h' : KeepsLaws t u) : KeepsLaws s u :=
  ⟨h'.store ∘ h.store, fun hr hb => h'.blocks (h.records hr) (h.blocks hr hb), h'.records ∘ h.records,
    h'.contexts ∘ h.contexts, h'.resp ∘ h.resp, h'.queue ∘ h.queue, fun d p e => h.idling d p (h'.idling d p e)⟩

/-- Every law is kept, and every line goes its way. -/
structure Keeps (s t : State) : Prop where
  laws : KeepsLaws s t
  lines : ∀ n, LineOk (s.line n) → LineOk (t.line n) ∧ LineGrows (s.line n) (t.line n)

theorem Keeps.trans {s t u : State} (h : Keeps s t) (h' : Keeps t u) : Keeps s u := by
  refine ⟨h.laws.trans h'.laws, fun n hn => ?_⟩
  obtain ⟨h1, g1⟩ := h.lines n hn
  obtain ⟨h2, g2⟩ := h'.lines n h1
  exact ⟨h2, g1.trans g2⟩

/-! ### One update -/

/-- What the laws speak of is the same in both. -/
structure SameLawful (s t : State) : Prop where
  lines : t.lines = s.lines
  store : t.store = s.store
  ctxs : t.sched.ctxs = s.sched.ctxs
  fetcher : t.fetcher = s.fetcher
  enable : t.host.enable = s.host.enable
  writeQ : t.host.writeQ = s.host.writeQ
  quiesce : t.host.quiesce = s.host.quiesce
  rings : t.resp.rings = s.resp.rings

theorem line_congr {s t : State} (h : t.lines = s.lines) (n : LineId) : t.line n = s.line n := by simp [State.line, h]

theorem ctx_congr {s t : State} (h : t.sched.ctxs = s.sched.ctxs) (c : CtxId) : t.ctx c = s.ctx c := by
  simp [State.ctx, h]

theorem ring_congr {s t : State} (h : t.fetcher.rings = s.fetcher.rings) (k : RingId) : t.ring k = s.ring k := by
  simp [State.ring, h]

theorem respRing_congr {s t : State} (h : t.resp.rings = s.resp.rings) (r : RespId) : t.respRing r = s.respRing r := by
  simp [State.respRing, h]

theorem mover_congr {s t : State} (h : t.movers = s.movers) (m : MoverId) : t.mover m = s.mover m := by
  simp [State.mover, h]

theorem storeOk_congr {s t : State} (h : t.store = s.store) : StoreOk s → StoreOk t := by
  simp [StoreOk, h]

theorem blocksOk_congr {s t : State} (hl : t.lines = s.lines) (hf : t.store.freeExts = s.store.freeExts) :
    BlocksOk s → BlocksOk t := by
  simp [BlocksOk, heldExtents, hl, hf, State.line]

theorem recordsOk_congr {s t : State} (h : t.sched.ctxs = s.sched.ctxs) : RecordsOk s → RecordsOk t := by
  simp [RecordsOk, State.ctx, h]

theorem contextsOk_congr {s t : State} (hr : t.fetcher.rings = s.fetcher.rings) (hf : t.fetcher.fetch = s.fetcher.fetch)
    (he : t.host.enable = s.host.enable) : ContextsOk s → ContextsOk t := by
  simp [ContextsOk, heldContexts, State.ring, hr, hf, he]

theorem respOk_congr {s t : State} (h : t.resp.rings = s.resp.rings) : RespOk s → RespOk t := by
  simp [RespOk, State.respRing, h]

theorem queueOk_congr {s t : State} (h : t.host.writeQ = s.host.writeQ) : QueueOk s → QueueOk t := by
  simp [QueueOk, h]

theorem linesKept_congr {s t : State} (h : t.lines = s.lines) (n : LineId) (hn : LineOk (s.line n)) :
    LineOk (t.line n) ∧ LineGrows (s.line n) (t.line n) := by
  rw [line_congr h]; exact ⟨hn, .refl _⟩

theorem Keeps.of_same {s t : State} (h : SameLawful s t) : Keeps s t where
  laws := {
    store := storeOk_congr h.store
    blocks := fun _ => blocksOk_congr h.lines (by rw [h.store])
    records := recordsOk_congr h.ctxs
    contexts := contextsOk_congr (by rw [h.fetcher]) (by rw [h.fetcher]) h.enable
    resp := respOk_congr h.rings
    queue := queueOk_congr h.writeQ
    idling := fun _ _ e => h.quiesce ▸ e }
  lines := linesKept_congr h.lines

theorem Keeps.refl (s : State) : Keeps s s := .of_same ⟨rfl, rfl, rfl, rfl, rfl, rfl, rfl, rfl⟩

variable (s : State)

/-- A context is given an operation whose record is in range. -/
theorem keeps_setCtx {c : CtxId} {x : Option Operation}
    (h : RecordsOk s → ∀ o b, x = some o → o.body = some b → wfBody b = true) : Keeps s (s.setCtx c x) where
  laws := {
    store := storeOk_congr rfl
    blocks := fun _ => blocksOk_congr rfl rfl
    records := fun hr d o b hd hb => by
      by_cases hdc : d = c
      · subst hdc; rw [State.setCtx_same] at hd; exact h hr o b hd hb
      · rw [State.setCtx_other _ _ _ _ hdc] at hd; exact hr d o b hd hb
    contexts := contextsOk_congr rfl rfl rfl
    resp := respOk_congr rfl
    queue := queueOk_congr rfl
    idling := fun _ _ e => e }
  lines := linesKept_congr rfl

/-- An operation is changed in other things than its record. -/
theorem keeps_modCtx {c : CtxId} {g : Operation → Operation} (hg : ∀ o, (g o).body = o.body) :
    Keeps s (s.modCtx c g) := by
  unfold State.modCtx
  split
  · exact .refl s
  · next o ho =>
    refine keeps_setCtx s fun hr q b hq hb => ?_
    cases hq
    rw [hg] at hb
    exact hr c o b ho hb

theorem keeps_setPhase (c : CtxId) (p : Phase) : Keeps s (s.setPhase c p) := keeps_modCtx s fun _ => rfl

/-- A ring's entry is replaced by one that holds no more contexts, in the same window. -/
theorem keeps_setRing {k : RingId} {x : CmdRing} (hw : x.window.length ≤ (s.ring k).window.length)
    (hs : x.windowSize = (s.ring k).windowSize) (hd : x.state = .disabled → (s.ring k).state = .disabled) :
    Keeps s (s.setRing k x) where
  laws := {
    store := storeOk_congr rfl
    blocks := fun _ => blocksOk_congr rfl rfl
    records := recordsOk_congr rfl
    contexts := fun ⟨hc, he⟩ => by
      refine ⟨fun j => ?_, he⟩
      obtain ⟨h1, h2⟩ := hc j
      by_cases hj : j = k
      · subst hj
        simp only [heldContexts, State.setRing_same, State.setRing_fetch, hs] at *
        exact ⟨by omega, fun e => by have := h2 (hd e); omega⟩
      · have e : heldContexts j (s.setRing k x) = heldContexts j s := by simp [heldContexts, hj]
        rw [e, State.setRing_other _ _ _ _ hj]
        exact ⟨h1, h2⟩
    resp := respOk_congr rfl
    queue := queueOk_congr rfl
    idling := fun _ _ e => e }
  lines := linesKept_congr rfl

/-- The law of one response ring's entry (R151). -/
def RespRingOk (x : RespRing) : Prop :=
  x.unreleased ≤ x.size ∧ (x.state = .active → x.fill < x.size ∧ x.release < x.size)

/-- A response ring's entry is replaced by one that keeps its law. -/
theorem keeps_setRespRing {r : RespId} {x : RespRing} (h : RespRingOk (s.respRing r) → RespRingOk x) :
    Keeps s (s.setRespRing r x) where
  laws := {
    store := storeOk_congr rfl
    blocks := fun _ => blocksOk_congr rfl rfl
    records := recordsOk_congr rfl
    contexts := contextsOk_congr rfl rfl rfl
    resp := fun hr j => by
      by_cases hj : j = r
      · subst hj; rw [State.setRespRing_same]; exact h (hr j)
      · rw [State.setRespRing_other _ _ _ _ hj]; exact hr j
    queue := queueOk_congr rfl
    idling := fun _ _ e => e }
  lines := linesKept_congr rfl

/-- The Host Port is replaced: ENABLE does not go off, the queue stays within its places, no idle period begins. -/
theorem keeps_setHost {h : HostPort} (hb : s.host.enable = .on → h.enable = .on) (hq : QueueOk s → h.writeQ.length ≤ Config.writeQueue)
    (hi : ∀ d p, h.quiesce = .idling d p → s.host.quiesce = .idling d p) : Keeps s (s.setHost h) where
  laws := {
    store := storeOk_congr rfl
    blocks := fun _ => blocksOk_congr rfl rfl
    records := recordsOk_congr rfl
    contexts := fun ⟨hc, hf⟩ => ⟨hc, fun e => hf fun e' => e (hb e')⟩
    resp := respOk_congr rfl
    queue := hq
    idling := hi }
  lines := linesKept_congr rfl

/-- The store is replaced by a lawful one with the same free extents. -/
theorem keeps_setStore {c : StoreController} (h : StoreOk s → StoreOk (s.setStore c)) (hf : c.freeExts = s.store.freeExts) :
    Keeps s (s.setStore c) where
  laws := {
    store := h
    blocks := fun _ => blocksOk_congr rfl hf
    records := recordsOk_congr rfl
    contexts := contextsOk_congr rfl rfl rfl
    resp := respOk_congr rfl
    queue := queueOk_congr rfl
    idling := fun _ _ e => e }
  lines := linesKept_congr rfl

/-! ### One line -/

/-- The extents of the lines but line `n`. -/
def otherExtents (s : State) (n : LineId) : List Extent :=
  (s.lines.rows.take n.val ++ s.lines.rows.drop (n.val + 1)).flatMap Line.extents

/-- The extents held are line `n`'s and the others', in some order. -/
theorem heldExtents_perm (n : LineId) : (heldExtents s).Perm ((s.line n).extents ++ otherExtents s n) := by
  have hn : n.val < s.lines.rows.length := by rw [s.lines.len]; exact n.isLt
  have hrows : s.lines.rows = s.lines.rows.take n.val ++ s.line n :: s.lines.rows.drop (n.val + 1) := by
    rw [show s.line n = s.lines.rows[n.val] from rfl, ← List.drop_eq_getElem_cons hn, List.take_append_drop]
  unfold heldExtents otherExtents
  conv_lhs => rw [hrows]
  simp only [List.flatMap_append, List.flatMap_cons]
  exact List.perm_append_comm_assoc _ _ _

@[simp] theorem otherExtents_setLine (n : LineId) (x : Line) : otherExtents (s.setLine n x) n = otherExtents s n := by
  simp only [otherExtents, State.setLine, Table.set, List.take_set_of_le (le_refl n.val),
    List.drop_set_of_lt (Nat.lt_succ_self n.val)]

@[simp] theorem otherExtents_setStore (n : LineId) (c : StoreController) :
    otherExtents (s.setStore c) n = otherExtents s n := rfl

/-- The laws of the blocks, with line `n`'s extents apart from the rest. -/
theorem blocksOk_iff (n : LineId) : BlocksOk s ↔
    FreeTableOk s.store.freeExts ∧
      ((s.line n).extents ++ (otherExtents s n ++ s.store.freeExts)).Pairwise Apart ∧
      (∀ e ∈ (s.line n).extents ++ (otherExtents s n ++ s.store.freeExts),
        1 ≤ e.count ∧ e.start + e.count ≤ Config.storeBlocks) ∧
      blocksOf (s.line n).extents + (blocksOf (otherExtents s n) + blocksOf s.store.freeExts) = Config.storeBlocks ∧
      ∀ j, (s.line j).state = .free → (s.line j).extents = [] := by
  have hp := heldExtents_perm s n
  have hp' := hp.append_right s.store.freeExts
  rw [List.append_assoc] at hp'
  have hsum := blocksOf_perm hp
  rw [blocksOf_append] at hsum
  unfold BlocksOk
  rw [← Nat.add_assoc, ← hsum]
  have hpair := hp'.pairwise_iff (R := Apart) Apart.symm
  have hall : (∀ e ∈ heldExtents s ++ s.store.freeExts, 1 ≤ e.count ∧ e.start + e.count ≤ Config.storeBlocks) ↔
      ∀ e ∈ (s.line n).extents ++ (otherExtents s n ++ s.store.freeExts),
        1 ≤ e.count ∧ e.start + e.count ≤ Config.storeBlocks := by
    simp only [hp'.mem_iff]
  rw [← hall, ← hpair]
  rfl

theorem keepsLaws_setLine {n : LineId} {x : Line} (he : x.extents = (s.line n).extents)
    (hs : x.state = .free → (s.line n).state = .free) : KeepsLaws s (s.setLine n x) where
  store := storeOk_congr rfl
  blocks := fun _ h => by
    rw [blocksOk_iff s n] at h
    obtain ⟨h1, h2, h3, h4, h5⟩ := h
    rw [blocksOk_iff _ n]
    simp only [State.setLine_same, he, otherExtents_setLine, State.setLine_store]
    refine ⟨h1, h2, h3, h4, fun j hj => ?_⟩
    by_cases hjn : j = n
    · subst hjn
      rw [State.setLine_same] at hj ⊢
      rw [he]
      exact h5 j (hs hj)
    · rw [State.setLine_other _ _ _ _ hjn] at hj ⊢
      exact h5 j hj
  records := recordsOk_congr rfl
  contexts := contextsOk_congr rfl rfl rfl
  resp := respOk_congr rfl
  queue := queueOk_congr rfl
  idling := fun _ _ e => e

/-- A line's entry is replaced by one that keeps its laws and goes its way. -/
theorem keeps_setLine {n : LineId} {x : Line} (he : x.extents = (s.line n).extents)
    (hs : x.state = .free → (s.line n).state = .free)
    (hl : LineOk (s.line n) → LineOk x ∧ LineGrows (s.line n) x) : Keeps s (s.setLine n x) where
  laws := keepsLaws_setLine s he hs
  lines j hj := by
    by_cases hjn : j = n
    · subst hjn; rw [State.setLine_same]; exact hl hj
    · rw [State.setLine_other _ _ _ _ hjn]; exact ⟨hj, .refl _⟩

end Sys2Proof.Machine

/-! PROOF. What the shared operations keep: completions and notices, the write queue of a line, pins and parks, the drain
of a line, the host link, the quiescence rule. -/

namespace Sys2Proof.Machine

theorem keeps_foldl {α : Type} {f : State → α → State} {l : List α} (h : ∀ t, ∀ x ∈ l, Keeps t (f t x)) (s : State) :
    Keeps s (l.foldl f s) := by
  induction l generalizing s with
  | nil => exact .refl s
  | cons x xs ih =>
    exact (h s x (by simp)).trans (ih (fun t y hy => h t y (by simp [hy])) _)

/-- The laws of a line do not speak of its policy, lap settings or pins. -/
theorem lineOk_of_same {l x : Line} (hl : l.state ≠ .free ∨ x = l ∨ { x with pins := [] } = { l with pins := [] })
    (hs : x.state = l.state) (hw : x.w = l.w) (hf : x.f = l.f) (hc : x.cap = l.cap)
    (hq : x.writers = l.writers) (hp : x.park = l.park) (h : LineOk l) : LineOk x := by
  obtain ⟨h1, h2, h3, h4, h5, h6⟩ := h
  refine ⟨by omega, by rw [queuedFrames, hq, hw]; exact h2, by rw [hq, hc]; exact h3, by rw [hp]; exact h4,
    by rw [hp, hw]; exact h5, fun e => ?_⟩
  rcases hl with hl | rfl | hl
  · exact absurd (hs ▸ e) hl
  · exact h6 e
  · rw [hl]; exact h6 (hs ▸ e)

/-- A FREE line holds no writer, no parked read, no pending notice and no held change. -/
theorem LineOk.free {l : Line} (h : LineOk l) (hs : l.state = .free) : { l with pins := [] } = Line.freeLine :=
  h.2.2.2.2.2 hs

theorem LineOk.free_lapPending {l : Line} (h : LineOk l) (hs : l.state = .free) : l.lapPending = false :=
  congrArg Line.lapPending (h.free hs)

theorem LineOk.free_lap {l : Line} (h : LineOk l) (hs : l.state = .free) : l.lap.on = false :=
  congrArg (fun x => x.lap.on) (h.free hs)

theorem LineOk.free_held {l : Line} (h : LineOk l) (hs : l.state = .free) : l.held = false :=
  congrArg Line.held (h.free hs)

theorem LineOk.free_writers {l : Line} (h : LineOk l) (hs : l.state = .free) : l.writers = [] :=
  congrArg Line.writers (h.free hs)

theorem LineOk.free_park {l : Line} (h : LineOk l) (hs : l.state = .free) : l.park = [] :=
  congrArg Line.park (h.free hs)

theorem LineOk.free_w {l : Line} (h : LineOk l) (hs : l.state = .free) : l.w = 0 :=
  congrArg Line.w (h.free hs)

theorem LineOk.free_f {l : Line} (h : LineOk l) (hs : l.state = .free) : l.f = 0 :=
  congrArg Line.f (h.free hs)

theorem LineOk.free_cap {l : Line} (h : LineOk l) (hs : l.state = .free) : l.cap = 0 :=
  congrArg Line.cap (h.free hs)

/-- Changes of a line's other fields are no way to go. -/
theorem lineGrows_of_same {l x : Line} (hs : x.state = l.state) (hw : l.w ≤ x.w) (hf : l.f ≤ x.f)
    (hch : x.channels = l.channels) (hc : x.cap = l.cap) (he : x.extents = l.extents) : LineGrows l x :=
  ⟨fun h => hs ▸ h, fun h => by simp [hs, h], fun _ => ⟨hw, hf, hch, hc, he⟩⟩

variable (s : State)

/-! ### Completions and notices -/

theorem keeps_setPosts (p : List Posted) : Keeps s (s.setPosts p) := .of_same ⟨rfl, rfl, rfl, rfl, rfl, rfl, rfl, rfl⟩

theorem keeps_setReady (l : List CtxId) : Keeps s (s.setReady l) := .of_same ⟨rfl, rfl, rfl, rfl, rfl, rfl, rfl, rfl⟩

theorem keeps_setMover (m : MoverId) (x : Option Mover) : Keeps s (s.setMover m x) :=
  .of_same ⟨rfl, rfl, rfl, rfl, rfl, rfl, rfl, rfl⟩

theorem keeps_setParkTimer (l : List (CtxId × Nat)) : Keeps s (s.setParkTimer l) :=
  .of_same ⟨rfl, rfl, rfl, rfl, rfl, rfl, rfl, rfl⟩

theorem keeps_setFaultSlot (r : RespId) (x : Option FaultInfo) : Keeps s (s.setFaultSlot r x) :=
  .of_same ⟨rfl, rfl, rfl, rfl, rfl, rfl, rfl, rfl⟩

theorem keeps_post (r : RespId) (i : PostItem) : Keeps s (post r i s) := by
  unfold post
  split
  · exact keeps_setPosts s _
  · exact .refl s

theorem keeps_freeCtx (c : CtxId) : Keeps s (freeCtx c s) := by
  unfold freeCtx
  split
  · exact .refl s
  · exact (keeps_setCtx s (c := c) (x := none) (by simp)).trans
      (keeps_setRing _ List.length_erase_le rfl id)

theorem keeps_finish (c : CtxId) (st : Status) (p a : Nat) : Keeps s (finish c st p a s) := by
  unfold finish
  split
  · exact .refl s
  · next o ho =>
    have done := keeps_setCtx s (c := c) (x := some { o with phase := .done, stage := none, result := some ⟨st, p, a⟩ })
      fun hr q b hq hb => hr c o b ho (by cases hq; exact hb)
    dsimp only
    split
    · exact done.trans (keeps_post _ _ _)
    · exact done.trans (keeps_freeCtx _ _)

theorem keeps_stopRing (k : RingId) (why : StopReason) : Keeps s (stopRing k why s) := by
  unfold stopRing
  dsimp only
  split
  · split
    · exact keeps_setRing s le_rfl rfl (by simp)
    · split
      · refine .trans ?_ (keeps_post _ _ _)
        exact keeps_setRing s le_rfl rfl (by simp)
      · exact keeps_setRing s le_rfl rfl (by simp)
  · exact .refl s

theorem keeps_setFaultPending (b : Bool) : Keeps s (s.setStore { s.store with faultPending := b }) :=
  keeps_setStore s id rfl

theorem keeps_raiseStoreFault : Keeps s (raiseStoreFault s) := by
  unfold raiseStoreFault
  split
  · exact (keeps_setFaultPending s true).trans (keeps_post _ _ _)
  · exact .refl s

theorem keeps_raiseRespFaulted (r : RespId) (x : FaultInfo) : Keeps s (raiseRespFaulted r x s) := by
  unfold raiseRespFaulted
  split
  · exact keeps_setFaultSlot s _ _
  · split
    · exact (keeps_setFaultSlot s _ _).trans (keeps_post _ _ _)
    · exact .refl s

theorem keeps_raiseLap (n : LineId) : Keeps s (raiseLap n s) := by
  unfold raiseLap
  dsimp only
  split
  · next h =>
    refine .trans ?_ (keeps_post _ _ _)
    refine keeps_setLine s rfl id fun hl => ⟨lineOk_of_same (l := s.line n) (.inl fun hf => ?_) rfl rfl rfl
      rfl rfl rfl hl, lineGrows_of_same rfl le_rfl le_rfl rfl rfl rfl⟩
    simp [hl.free_lap hf] at h
  · exact .refl s

/-- A LAP notice's pending flag is cleared. -/
theorem keeps_clearLap (n : LineId) : Keeps s (s.setLine n { s.line n with lapPending := false }) := by
  refine keeps_setLine s rfl id fun hl => ⟨?_, lineGrows_of_same rfl le_rfl le_rfl rfl rfl rfl⟩
  by_cases hf : (s.line n).state = .free
  · have := hl.free_lapPending hf
    rwa [show { s.line n with lapPending := false } = s.line n by rw [← this]]
  · exact lineOk_of_same (.inl hf) rfl rfl rfl rfl rfl rfl hl

theorem keeps_discardItem (i : PostItem) : Keeps s (discardItem s i) := by
  cases i with
  | completion c => exact keeps_freeCtx s c
  | lap n => exact keeps_clearLap s n
  | ringStopped k => exact keeps_setRing s le_rfl rfl id
  | storeFault => exact keeps_setFaultPending s false
  | respFaulted r => exact keeps_setFaultSlot s r none

theorem keeps_discardPosts (r : RespId) : Keeps s (discardPosts r s) :=
  (keeps_setPosts s _).trans (keeps_foldl (fun t x _ => keeps_discardItem t x.item) _)

/-! ### The write queue, pins and parks -/

theorem keeps_makeReady (c : CtxId) : Keeps s (makeReady c s) := (keeps_setPhase s c .ready).trans (keeps_setReady _ _)

theorem keeps_leaveReady (c : CtxId) : Keeps s (leaveReady c s) := keeps_setReady s _

theorem keeps_activate (n : LineId) : Keeps s (activate n s) := by
  unfold activate
  split
  · exact .refl s
  · split
    · exact keeps_setPhase s _ _
    · exact keeps_makeReady s _

/-- A writer that fits joins the write queue of an OPEN line (R8). -/
theorem keeps_joinQueue {n : LineId} (c : CtxId) {M : Nat} (ho : (s.line n).state = .opened) (hM : M ≤ (s.line n).cap)
    (hp : joinPosition (s.line n) + M ≤ Config.maxPosition) : Keeps s (joinQueue n c M s) := by
  have joined : Keeps s (s.setLine n { s.line n with writers := (s.line n).writers ++ [⟨c, M⟩] }) := by
    refine keeps_setLine s rfl id fun hl => ⟨?_, lineGrows_of_same rfl le_rfl le_rfl rfl rfl rfl⟩
    obtain ⟨h1, h2, h3, h4, h5, h6⟩ := hl
    refine ⟨h1, ?_, ?_, h4, h5, fun e => by simp [ho] at e⟩
    · simpa [queuedFrames, joinPosition, Nat.add_assoc] using hp
    · exact List.forall_mem_append.2 ⟨h3, by simpa using hM⟩
  unfold joinQueue
  dsimp only
  split
  · exact joined.trans (keeps_activate _ n)
  · exact joined.trans (keeps_setPhase _ _ _)

theorem keeps_applyHeld (n : LineId) : Keeps s (applyHeld n s) := by
  unfold applyHeld
  dsimp only
  split
  · next hh =>
    have changed : Keeps s (s.setLine n { s.line n with policy := .guarded, held := false }) :=
      keeps_setLine s rfl id fun hl => ⟨lineOk_of_same (l := s.line n)
        (.inl fun hf => by simp [hl.free_held hf] at hh) rfl rfl rfl rfl rfl rfl hl,
        lineGrows_of_same rfl le_rfl le_rfl rfl rfl rfl⟩
    split
    · exact changed.trans (keeps_finish _ _ _ _ _)
    · exact changed
  · exact .refl s

/-- Writers leave a line's queue. -/
theorem keeps_setWriters (n : LineId) {ws : List Writer} (h : ws.Sublist (s.line n).writers) :
    Keeps s (s.setLine n { s.line n with writers := ws }) := by
  refine keeps_setLine s rfl id fun hl => ⟨?_, lineGrows_of_same rfl le_rfl le_rfl rfl rfl rfl⟩
  obtain ⟨h1, h2, h3, h4, h5, h6⟩ := id hl
  have hq : (ws.map Writer.frames).sum ≤ queuedFrames (s.line n) := (h.map Writer.frames).sum_le_sum (by simp)
  refine ⟨h1, ?_, fun x hx => h3 x (h.subset hx), h4, h5, fun e => ?_⟩
  · unfold queuedFrames; dsimp only; omega
  · have hw := hl.free_writers e
    have hws : ws = [] := List.sublist_nil.1 (hw ▸ h)
    rw [hws, ← h6 e, ← hw]

theorem keeps_leaveHead (n : LineId) : Keeps s (leaveHead n s) :=
  ((keeps_setWriters s n (List.tail_sublist _)).trans (keeps_applyHeld _ n)).trans (keeps_activate _ n)

theorem keeps_guardRecheck (n : LineId) : Keeps s (guardRecheck n s) := by
  unfold guardRecheck
  dsimp only
  split
  · exact .refl s
  · split
    · exact keeps_makeReady s _
    · exact .refl s

/-- A line's pins are replaced. -/
theorem keeps_setPins (n : LineId) (ps : List Pin) : Keeps s (s.setLine n { s.line n with pins := ps }) :=
  keeps_setLine s rfl id fun hl => ⟨lineOk_of_same (.inr (.inr rfl)) rfl rfl rfl rfl rfl rfl hl,
    lineGrows_of_same rfl le_rfl le_rfl rfl rfl rfl⟩

/-- Reads leave a line's park list. -/
theorem keeps_setPark (n : LineId) {ps : List Parked} (h : ps.Sublist (s.line n).park) :
    Keeps s (s.setLine n { s.line n with park := ps }) := by
  refine keeps_setLine s rfl id fun hl => ⟨?_, lineGrows_of_same rfl le_rfl le_rfl rfl rfl rfl⟩
  obtain ⟨h1, h2, h3, h4, h5, h6⟩ := id hl
  refine ⟨h1, h2, h3, h4.sublist h, fun x hx => h5 x (h.subset hx), fun e => ?_⟩
  have hp := hl.free_park e
  have hps : ps = [] := List.sublist_nil.1 (hp ▸ h)
  rw [hps, ← h6 e, ← hp]

theorem keeps_unpark (n : LineId) (c : CtxId) : Keeps s (unpark n c s) :=
  (keeps_setPark s n List.filter_sublist).trans (keeps_setParkTimer _ _)

theorem mem_parkInsert {x y : Parked} {l : List Parked} : y ∈ parkInsert x l ↔ y = x ∨ y ∈ l := by
  induction l with
  | nil => simp [parkInsert]
  | cons z zs ih =>
    unfold parkInsert
    split
    · simp [ih]; tauto
    · simp

/-- The park list stays ordered by window end (R16). -/
theorem pairwise_parkInsert {x : Parked} {l : List Parked} (h : l.Pairwise fun y z => y.windowEnd ≤ z.windowEnd) :
    (parkInsert x l).Pairwise fun y z => y.windowEnd ≤ z.windowEnd := by
  induction l with
  | nil => simp [parkInsert]
  | cons y ys ih =>
    obtain ⟨hy, hys⟩ := List.pairwise_cons.1 h
    unfold parkInsert
    split
    · next hle =>
      refine List.pairwise_cons.2 ⟨fun z hz => ?_, ih hys⟩
      rcases mem_parkInsert.1 hz with rfl | hz
      · exact hle
      · exact hy z hz
    · next hlt =>
      refine List.pairwise_cons.2 ⟨fun z hz => ?_, h⟩
      rcases List.mem_cons.1 hz with rfl | hz
      · omega
      · have := hy z hz; omega

/-- A read parks on a line that is not FREE, its window end above W (R16). -/
theorem keeps_parkOn {n : LineId} (c : CtxId) {e : Nat} (d : Nat) (hs : (s.line n).state ≠ .free) (he : (s.line n).w < e) :
    Keeps s (parkOn n c e d s) := by
  refine .trans ?_ (keeps_setParkTimer _ _)
  refine keeps_setLine s rfl id fun hl => ⟨?_, lineGrows_of_same rfl le_rfl le_rfl rfl rfl rfl⟩
  obtain ⟨h1, h2, h3, h4, h5, h6⟩ := hl
  refine ⟨h1, h2, h3, pairwise_parkInsert h4, fun x hx => ?_, fun e => absurd e hs⟩
  rcases mem_parkInsert.1 hx with rfl | hx
  · exact he
  · exact h5 x hx

/-! ### The drain of a line -/

theorem lineOk_freeLine : LineOk Line.freeLine := by
  refine ⟨le_rfl, Nat.zero_le _, ?_, ?_, ?_, fun _ => rfl⟩ <;> simp [Line.freeLine]

/-- Extents that are returned leave the others and the table lawful (R24, R28). -/
theorem returned_lawful {es os fs : List Extent} {N : Nat} (hf : FreeTableOk fs)
    (hp : (es ++ (os ++ fs)).Pairwise Apart) (hb : ∀ e ∈ es ++ (os ++ fs), 1 ≤ e.count ∧ e.start + e.count ≤ N) :
    FreeTableOk (returnExtents es fs) ∧ (os ++ returnExtents es fs).Pairwise Apart ∧
      ∀ e ∈ os ++ returnExtents es fs, 1 ≤ e.count ∧ e.start + e.count ≤ N := by
  obtain ⟨hpe, hpof, hcross⟩ := List.pairwise_append.1 hp
  obtain ⟨hpo, hpf, hof⟩ := List.pairwise_append.1 hpof
  obtain ⟨hbe, hbof⟩ := List.forall_mem_append.1 hb
  obtain ⟨hbo, hbf⟩ := List.forall_mem_append.1 hbof
  have hok : FreeTableOk (returnExtents es fs) := freeTableOk_returnExtents (fun e he => (hbe e he).1) hf
    (List.pairwise_append.2 ⟨hpe, hpf, fun e he f hf => hcross e he f (List.mem_append_right _ hf)⟩)
  refine ⟨hok, List.pairwise_append.2 ⟨hpo, hok.1.imp fun h => .inl h.le, fun o ho => ?_⟩,
    List.forall_mem_append.2 ⟨hbo, fun x hx => ⟨hok.2 x hx, ?_⟩⟩⟩
  · refine (forall_apart_iff (hbo o ho).1 hok.2).2 fun b hob hb => ?_
    rcases (covers_returnExtents es fs b).1 hb with ⟨e, he, heb⟩ | ⟨f, hf, hfb⟩
    · exact (apart_iff (hbe e he).1 (hbo o ho).1).1 (hcross e he o (List.mem_append_left _ ho)) b heb hob
    · exact (apart_iff (hbo o ho).1 (hbf f hf).1).1 (hof o ho f hf) b hob hfb
  · have h1 := hok.2 x hx
    have hlast : Covers (returnExtents es fs) (x.start + x.count - 1) := ⟨x, hx, by unfold Extent.Holds; omega⟩
    rcases (covers_returnExtents es fs _).1 hlast with ⟨e, he, heb⟩ | ⟨f, hf, hfb⟩
    · have := (hbe e he).2; unfold Extent.Holds at heb; omega
    · have := (hbf f hf).2; unfold Extent.Holds at hfb; omega

/-- A line's extents are returned and the line is FREE (R6, R28, R132). -/
theorem keeps_freed {n : LineId} (hs : (s.line n).state = .closing) :
    Keeps s ((s.setStore { s.store with freeExts := returnExtents (s.line n).extents s.store.freeExts }).setLine n
      Line.freeLine) where
  laws := {
    store := id
    blocks := fun _ h => by
      rw [blocksOk_iff s n] at h
      obtain ⟨h1, h2, h3, h4, h5⟩ := h
      rw [blocksOk_iff _ n]
      simp only [State.setLine_same, otherExtents_setLine, State.setLine_store, State.setStore_store,
        otherExtents_setStore]
      simp only [Line.freeLine, List.nil_append, blocksOf_nil, Nat.zero_add]
      obtain ⟨hok, hp, hb⟩ := returned_lawful h1 h2 h3
      refine ⟨hok, hp, hb, by rw [blocksOf_returnExtents]; omega, fun j hj => ?_⟩
      by_cases hjn : j = n
      · subst hjn; rw [State.setLine_same]
      · rw [State.setLine_other _ _ _ _ hjn] at hj ⊢; exact h5 j hj
    records := recordsOk_congr rfl
    contexts := contextsOk_congr rfl rfl rfl
    resp := respOk_congr rfl
    queue := queueOk_congr rfl
    idling := fun _ _ e => e }
  lines j hj := by
    by_cases hjn : j = n
    · subst hjn
      rw [State.setLine_same]
      exact ⟨lineOk_freeLine, fun _ => rfl, fun _ => by simp [Line.freeLine], fun h => absurd rfl h⟩
    · rw [State.setLine_other _ _ _ _ hjn]; exact ⟨hj, .refl _⟩

theorem keeps_drainTest (n : LineId) : Keeps s (drainTest n s) := by
  unfold drainTest
  dsimp only
  split
  · next h =>
    split
    · exact (keeps_freed s h.1).trans (keeps_finish _ _ _ _ _)
    · exact keeps_freed s h.1
  · exact .refl s

theorem keeps_removePin (n : LineId) (c : CtxId) : Keeps s (removePin n c s) :=
  ((keeps_setPins s n _).trans (keeps_guardRecheck _ n)).trans (keeps_drainTest _ n)

theorem keeps_removePins (ns : List LineId) (c : CtxId) : Keeps s (removePins ns c s) :=
  keeps_foldl (fun t n _ => keeps_removePin t n c) s

/-! ### The host link -/

/-- The host write queue and its waiters are replaced, the queue within its places. -/
theorem keeps_setQueue (q : List HostWrite) (ws : List Waiter) (hq : QueueOk s → q.length ≤ Config.writeQueue) :
    Keeps s (s.setHost { s.host with writeQ := q, waiters := ws }) :=
  keeps_setHost s id hq fun _ _ e => e

theorem keeps_handOver (x : Waiter) : Keeps s (handOver x s) := keeps_setQueue s _ _ fun h => letIn_length _ _ h

theorem keeps_takePlace (x : Waiter) {ws : List HostWrite} (h : s.host.writeQ.length + ws.length ≤ Config.writeQueue) :
    Keeps s (takePlace x ws s) :=
  keeps_setQueue s _ _ fun _ => letIn_length _ _ (by simpa using h)

theorem keeps_awaitPlace (x : Waiter) : Keeps s (awaitPlace x s) := by
  unfold awaitPlace
  split
  · exact .refl s
  · exact keeps_setHost s id id fun _ _ e => e

theorem keeps_giveUpPlace (x : Waiter) : Keeps s (giveUpPlace x s) := keeps_setQueue s _ _ fun h => letIn_length _ _ h

theorem keeps_dropItemWait : Keeps s (dropItemWait s) := by
  unfold dropItemWait
  split
  · exact keeps_giveUpPlace s _
  · exact .refl s

theorem keeps_setVectors (v : Table MsgVector 4) : Keeps s (s.setHost { s.host with vectors := v }) :=
  keeps_setHost s id id fun _ _ e => e

theorem keeps_sendMessage (r : RespId) : Keeps s (sendMessage r s) := by
  unfold sendMessage
  dsimp only
  split
  · exact .refl s
  · split
    · exact keeps_setVectors s _
    · exact keeps_handOver s _

theorem keeps_sendInterrupt (r : RespId) : Keeps s (sendInterrupt r s) := by
  refine .trans ?_ (keeps_sendMessage _ r)
  exact keeps_setRespRing s id

theorem keeps_askRead (w : Requester) (a : HostAddr) (n : Nat) : Keeps s (askRead w a n s) := by
  unfold askRead
  dsimp only
  split <;> exact .of_same ⟨rfl, rfl, rfl, rfl, rfl, rfl, rfl, rfl⟩

theorem keeps_issueReads : Keeps s (issueReads s) := .of_same ⟨rfl, rfl, rfl, rfl, rfl, rfl, rfl, rfl⟩

theorem keeps_beginExit : Keeps s (beginExit s) := by
  unfold beginExit
  split
  · exact keeps_setStore s id rfl
  · exact .refl s

theorem keeps_quietWake : Keeps s (quietWake s) := by
  unfold quietWake
  split
  · exact (keeps_setHost s (h := { s.host with quiesce := .awake }) id id (by simp)).trans (keeps_beginExit _)
  · exact .refl s
  · exact .refl s

end Sys2Proof.Machine

/-! PROOF. What the movers, the writers, the reads and the queries keep. -/

namespace Sys2Proof.Machine

variable (s : State)

/-! ### Movers -/

theorem keeps_askStore (m : MoverId) : Keeps s (askStore m s) := by
  unfold askStore
  split
  · exact .refl s
  · exact keeps_setStore s id rfl

theorem keeps_askTransfers (fuel : Nat) (m : MoverId) : Keeps s (askTransfers fuel m s) := by
  induction fuel generalizing s with
  | zero => exact .refl s
  | succ fuel ih =>
    unfold askTransfers
    split
    · exact .refl s
    · split
      · dsimp only
        split
        · exact ((keeps_setMover s m _).trans (keeps_askRead _ _ _ _)).trans (ih _)
        · exact .refl s
      · exact .refl s

theorem keeps_pump (m : MoverId) : Keeps s (pump m s) := (keeps_askTransfers s _ m).trans (keeps_askStore _ m)

theorem keeps_pumpAll : Keeps s (pumpAll s) :=
  (((keeps_pump s 0).trans (keeps_pump _ 1)).trans (keeps_pump _ 2)).trans (keeps_pump _ 3)

theorem keeps_handTransfers (m : MoverId) (b : Body) : Keeps s (handTransfers m b s) := by
  unfold handTransfers
  split
  · exact .refl s
  · exact (keeps_foldl (fun t _ _ => keeps_handOver t _) s).trans (keeps_setMover _ m _)

theorem keeps_deliver (m : MoverId) (run : Nat) (bytes : List Byte) (bad : List Nat) :
    Keeps s (deliver m run bytes bad s) := by
  unfold deliver
  split
  · exact .refl s
  · split
    · dsimp only
      refine .trans ?_ (keeps_pump _ m)
      split
      · exact keeps_setMover s m _
      · exact (keeps_setMover s m _).trans (keeps_handTransfers _ m _)
    · exact .refl s

theorem keeps_stored (m : MoverId) (len : Nat) : Keeps s (stored m len s) := by
  unfold stored
  split
  · exact .refl s
  · exact (keeps_setMover s m _).trans (keeps_pump _ m)

theorem keeps_transferArrived (m : MoverId) (x : Nat) (bytes : List Byte) : Keeps s (transferArrived m x bytes s) := by
  unfold transferArrived
  split
  · exact .refl s
  · split
    · exact .refl s
    · exact (keeps_setMover s m _).trans (keeps_pump _ m)

theorem keeps_transferFailed (m : MoverId) (a : HostAddr) : Keeps s (transferFailed m a s) := by
  unfold transferFailed
  split
  · exact .refl s
  · exact keeps_setMover s m _

/-! ### Writers -/

theorem keeps_startWriter (n : LineId) (c : CtxId) (frames : Nat) : Keeps s (startWriter n c frames s) := by
  unfold startWriter
  dsimp only
  split
  · exact keeps_finish s _ _ _ _
  · split
    · exact keeps_finish s _ _ _ _
    · split
      · exact keeps_finish s _ _ _ _
      · exact keeps_joinQueue s c (by simp_all) (by omega) (by omega)

theorem keeps_wakeRead (n : LineId) (c : CtxId) : Keeps s (wakeRead n c s) := by
  unfold wakeRead
  split
  · exact .refl s
  · next o ho =>
    split
    · split
      · exact keeps_finish s _ _ _ _
      · exact keeps_makeReady s c
    · next hb => exact keeps_setCtx s fun hr q b hq => by cases hq; exact hr c o b ho
    · exact .refl s

theorem keeps_commitWalk (n : LineId) : Keeps s (commitWalk n s) :=
  keeps_foldl (fun t _ _ => (keeps_unpark t n _).trans (keeps_wakeRead _ n _)) s

@[simp] theorem leaveReady_line (c : CtxId) (n : LineId) : (leaveReady c s).line n = s.line n := rfl

/-- The entry of a line whose active writer has left (R10, R15). -/
def headLeft (l : Line) : Line :=
  { l with writers := l.writers.tail, policy := if l.held then .guarded else l.policy, held := false }

theorem applyHeld_line (n : LineId) : (applyHeld n s).line n =
    { s.line n with policy := if (s.line n).held then .guarded else (s.line n).policy, held := false } := by
  unfold applyHeld
  dsimp only
  split
  · split <;> simp
  · next h =>
    have hf : (s.line n).held = false := by simpa using h
    conv_lhs => rw [show s.line n = { s.line n with held := (s.line n).held } from rfl, hf]

theorem applyHeld_line_other {n j : LineId} (h : j ≠ n) : (applyHeld n s).line j = s.line j := by
  unfold applyHeld
  dsimp only
  repeat' split
  all_goals simp [h]

@[simp] theorem activate_line (n j : LineId) : (activate n s).line j = s.line j := by simp [State.line]

theorem leaveHead_line (n : LineId) : (leaveHead n s).line n = headLeft (s.line n) := by
  simp [leaveHead, applyHeld_line, headLeft]

theorem leaveHead_line_other {n j : LineId} (h : j ≠ n) : (leaveHead n s).line j = s.line j := by
  simp [leaveHead, applyHeld_line_other _ h, h]

@[simp] theorem makeReady_line (c : CtxId) (n : LineId) : (makeReady c s).line n = s.line n := by simp [State.line]

@[simp] theorem wakeRead_line (n j : LineId) (c : CtxId) : (wakeRead n c s).line j = s.line j := by
  unfold wakeRead
  repeat' split
  all_goals simp

/-- A walk takes the operations given from the park list and nothing else from the line. -/
theorem walk_line (n : LineId) (l : List Parked) : (l.foldl (fun t x => wakeRead n x.ctx (unpark n x.ctx t)) s).line n =
    { s.line n with park := (s.line n).park.filter fun y => decide (y.ctx ∉ l.map Parked.ctx) } := by
  induction l generalizing s with
  | nil => simp
  | cons x xs ih =>
    rw [List.foldl_cons, ih, wakeRead_line, unpark_line]
    simp only [List.filter_filter]
    congr 1
    exact List.filter_congr fun y _ => by simp [Bool.and_comm]

theorem walk_line_other {n j : LineId} (h : j ≠ n) (l : List Parked) :
    (l.foldl (fun t x => wakeRead n x.ctx (unpark n x.ctx t)) s).line j = s.line j := by
  induction l generalizing s with
  | nil => rfl
  | cons x xs ih => rw [List.foldl_cons, ih, wakeRead_line, unpark_line_other _ _ h]

/-- What a commit walk leaves on the park list waits for a position above W (R16, R83). -/
theorem walk_leaves {l : List Parked} {w : Nat} (h : l.Pairwise fun x y => x.windowEnd ≤ y.windowEnd) :
    ∀ y ∈ l.filter fun y => decide (y.ctx ∉ (l.takeWhile fun x => decide (x.windowEnd ≤ w)).map Parked.ctx),
      w < y.windowEnd := by
  intro y hy
  obtain ⟨hy, hn⟩ := List.mem_filter.1 hy
  rw [← List.takeWhile_append_dropWhile (p := fun x => decide (x.windowEnd ≤ w)) (l := l)] at hy h
  rcases List.mem_append.1 hy with hy | hy
  · exact absurd (List.mem_map_of_mem (f := Parked.ctx) hy) (by simpa using hn)
  · obtain ⟨-, hd, -⟩ := List.pairwise_append.1 h
    cases hc : l.dropWhile fun x => decide (x.windowEnd ≤ w) with
    | nil => rw [hc] at hy; cases hy
    | cons z zs =>
      have hz : w < z.windowEnd := by
        have := List.head_dropWhile_not (l := l) (fun x : Parked => decide (x.windowEnd ≤ w)) (by simp [hc])
        simpa [hc] using this
      rw [hc] at hy hd
      rcases List.mem_cons.1 hy with rfl | hy
      · exact hz
      · exact hz.trans_le (List.rel_of_pairwise_cons hd hy)

/-- The entry of a line after a commit of its active writer and the walk of its park list (R82, R83). -/
def committedLine (l : Line) (w : Nat) : Line :=
  { headLeft { l with w := w } with
    park := l.park.filter fun y => decide (y.ctx ∉ (l.park.takeWhile fun x => decide (x.windowEnd ≤ w)).map Parked.ctx) }

/-- A commit up to the walk. -/
def committed (n : LineId) (s : State) : State :=
  commitWalk n (leaveHead n (s.setLine n { s.line n with w := (s.line n).w + activeFrames (s.line n) }))

theorem committed_line (n : LineId) : (committed n s).line n =
    committedLine (s.line n) ((s.line n).w + activeFrames (s.line n)) := by
  simp only [committed, commitWalk, walk_line, leaveHead_line, State.setLine_same]
  rfl

theorem committed_line_other {n j : LineId} (h : j ≠ n) : (committed n s).line j = s.line j := by
  simp only [committed, commitWalk]
  rw [walk_line_other _ h, leaveHead_line_other _ h, State.setLine_other _ _ _ _ h]

theorem lineOk_committed {l : Line} (h : LineOk l) : LineOk (committedLine l (l.w + activeFrames l)) ∧
    LineGrows l (committedLine l (l.w + activeFrames l)) := by
  obtain ⟨h1, h2, h3, h4, h5, h6⟩ := id h
  refine ⟨⟨?_, ?_, ?_, h4.sublist List.filter_sublist, walk_leaves h4, fun hs => ?_⟩, id, ?_, fun _ =>
    ⟨by simp [committedLine, headLeft], le_rfl, rfl, rfl, rfl⟩⟩
  · simp only [committedLine, headLeft]; omega
  · cases hw : l.writers <;> simp_all [committedLine, headLeft, queuedFrames, activeFrames]
    omega
  · exact fun x hx => h3 x (List.mem_of_mem_tail hx)
  · have hl : ({ l with pins := [] } : Line) = Line.freeLine := h6 hs
    have hw := h.free_writers hs
    have hp := h.free_park hs
    have hh := h.free_held hs
    rw [← hl]
    simp [committedLine, headLeft, activeFrames, hw, hp, hh]
  · intro hs
    simp [committedLine, headLeft, hs]

theorem keeps_committed (n : LineId) : Keeps s (committed n s) where
  laws := by
    unfold committed
    refine .trans (.trans ?_ (keeps_leaveHead _ n).laws) (keeps_commitWalk _ n).laws
    exact keepsLaws_setLine s rfl id
  lines j hj := by
    by_cases hjn : j = n
    · subst hjn; rw [committed_line]; exact lineOk_committed hj
    · rw [committed_line_other s hjn]; exact ⟨hj, .refl _⟩

theorem keeps_commitAt (n : LineId) (c : CtxId) (aux : Nat) : Keeps s (commitAt n c aux s) := by
  have h := keeps_committed s n
  unfold committed at h
  unfold commitAt
  dsimp only
  refine .trans ?_ (keeps_drainTest _ n)
  refine .trans ?_ (keeps_finish _ _ _ _ _)
  split
  · exact h.trans (keeps_raiseLap _ n)
  · exact h

/-- An abandoned write raises F over positions below W (R3, R87). -/
theorem keeps_raiseFloor (n : LineId) {k : Nat} (hk : k = 0 ∨ ∃ x ∈ (s.line n).writers, x.frames = k) :
    Keeps s (s.setLine n { s.line n with f := abandonedFloor (s.line n) k }) := by
  refine keeps_setLine s rfl id fun hl => ?_
  obtain ⟨h1, h2, h3, h4, h5, h6⟩ := id hl
  have hc : k ≤ (s.line n).cap := by
    rcases hk with rfl | ⟨x, hx, rfl⟩
    · exact Nat.zero_le _
    · exact h3 x hx
  refine ⟨⟨?_, h2, h3, h4, h5, fun e => ?_⟩, id, fun e e' => by simp [e] at e', fun _ => ⟨le_rfl, ?_, rfl, rfl, rfl⟩⟩
  · simp only [abandonedFloor]; omega
  · have hw := hl.free_writers e
    obtain rfl : k = 0 := by simpa [hw] using hk
    have hf : abandonedFloor (s.line n) 0 = (s.line n).f := by
      have hfree := h6 e
      have h0 : (s.line n).w = 0 := congrArg Line.w hfree
      simp [abandonedFloor, h0]
    rw [hf]
    exact h6 e
  · simp only [abandonedFloor]; omega

theorem activeFrames_eq (l : Line) : activeFrames l = 0 ∨ ∃ x ∈ l.writers, x.frames = activeFrames l := by
  unfold activeFrames
  split
  · exact .inl rfl
  · next h => exact .inr ⟨_, by rw [h]; exact List.mem_cons_self, rfl⟩

theorem keeps_abandonAt (n : LineId) (c : CtxId) (st : Status) (p a : Nat) : Keeps s (abandonAt n c st p a s) :=
  (((keeps_raiseFloor s n (activeFrames_eq _)).trans (keeps_leaveHead _ n)).trans (keeps_drainTest _ n)).trans
    (keeps_finish _ _ _ _ _)

/-! ### Reads -/

theorem keeps_keepStart (c : CtxId) (p : Nat) : Keeps s (keepStart c p s) := keeps_modCtx s fun _ => rfl

theorem keeps_setStage (c : CtxId) (x : MixStage) : Keeps s (setStage c x s) := keeps_modCtx s fun _ => rfl

@[simp] theorem keepStart_line (c : CtxId) (p : Nat) (n : LineId) : (keepStart c p s).line n = s.line n := by
  simp [keepStart, State.line]

/-- A read parks on a line that is not FREE, its window end above W (R16, R94). -/
theorem keeps_parkRead {n : LineId} (c : CtxId) {e : Nat} (d tap : Nat) (hs : (s.line n).state ≠ .free)
    (he : (s.line n).w < e) : Keeps s (parkRead n c e d tap s) := by
  unfold parkRead
  refine .trans ?_ (keeps_parkOn _ c d ?_ ?_)
  · exact keeps_modCtx s fun _ => rfl
  · simpa [State.line] using hs
  · simpa [State.line] using he

theorem keeps_placeTap {n : LineId} (c : CtxId) (p frames wait : Nat) (hs : (s.line n).state ≠ .free) :
    Keeps s (placeTap n c p frames wait s) := by
  unfold placeTap
  dsimp only
  split
  · exact keeps_finish s _ _ _ _
  split
  · exact keeps_finish s _ _ _ _
  split
  · exact (keeps_keepStart s c p).trans (keeps_makeReady _ c)
  split
  · exact keeps_finish s _ _ _ _
  · exact (keeps_keepStart s c p).trans (keeps_parkRead _ c _ _ (by simpa using hs) (by simp; omega))

theorem keeps_startTap (n : LineId) (c : CtxId) (frames wait : Nat) (absolute : Bool) (fld : Nat) (mask : BitVec 16) :
    Keeps s (startTap n c frames wait absolute fld mask s) := by
  unfold startTap
  dsimp only
  split
  · exact keeps_finish s _ _ _ _
  split
  · exact keeps_finish s _ _ _ _
  split
  · exact keeps_finish s _ _ _ _
  split
  · exact keeps_finish s _ _ _ _
  · exact keeps_placeTap s c _ _ _ (by simp_all)

theorem keeps_placePin (n : LineId) (x : Pin) : Keeps s (placePin n x s) := keeps_setPins s n _

theorem keeps_grantTap (m : MoverId) (n : LineId) (c : CtxId) (o : Operation) (frames : Nat) :
    Keeps s (grantTap m n c o frames s) := by
  unfold grantTap
  dsimp only
  split
  · exact keeps_finish s _ _ _ _
  split
  · exact keeps_finish s _ _ _ _
  · exact (((keeps_placePin s n _).trans (keeps_setPhase _ c _)).trans (keeps_setMover _ m _)).trans (keeps_pump _ m)

/-! ### Mixes -/

theorem keeps_shapeVisit (c : CtxId) (dest : Option LineId) (frames : Nat) (taps : List MixTap) (i : Nat) :
    Keeps s (shapeVisit c dest frames taps i s) := by
  unfold shapeVisit
  dsimp only
  split
  · exact .refl s
  · split
    · exact keeps_finish s _ _ _ _
    · exact keeps_setStage s c _

theorem keeps_startMix (c : CtxId) (dest : Option LineId) (frames : Nat) (taps : List MixTap) :
    Keeps s (startMix c dest frames taps s) := (keeps_setPhase s c _).trans (keeps_shapeVisit _ c dest frames taps 0)

theorem keeps_proceed (c : CtxId) (dest : Option LineId) : Keeps s (proceed c dest s) := by
  cases dest with
  | none =>
    refine .trans ?_ (keeps_makeReady _ c)
    exact keeps_modCtx s fun _ => rfl
  | some n => exact keeps_setStage s c _

theorem keeps_placeVisit (c : CtxId) (o : Operation) (dest : Option LineId) (frames wait : Nat) (taps : List MixTap)
    (i : Nat) : Keeps s (placeVisit c o dest frames wait taps i s) := by
  unfold placeVisit
  split
  · exact .refl s
  dsimp only
  split
  · exact keeps_finish s _ _ _ _
  next hopen =>
  split
  · exact keeps_finish s _ _ _ _
  split
  · exact keeps_finish s _ _ _ _
  split
  · exact keeps_finish s _ _ _ _
  split
  · split
    · exact (keeps_keepStart s c _).trans (keeps_setStage _ c _)
    · exact (keeps_keepStart s c _).trans (keeps_proceed _ c _)
  split
  · exact keeps_finish s _ _ _ _
  · exact (keeps_keepStart s c _).trans (keeps_parkRead _ c _ _ (by simp_all) (by simp; omega))

theorem keeps_keepTap (c : CtxId) (o : Operation) (i p : Nat) : Keeps s (keepTap c o i p s) := by
  unfold keepTap
  split
  · exact keeps_keepStart s c p
  · exact .refl s

@[simp] theorem keepTap_line (c : CtxId) (o : Operation) (i p : Nat) (n : LineId) :
    (keepTap c o i p s).line n = s.line n := by
  unfold keepTap; split <;> simp

theorem keeps_wakeEnd (c : CtxId) (o : Operation) (dest : Option LineId) : Keeps s (wakeEnd c o dest s) := by
  cases dest with
  | none => exact keeps_proceed s c none
  | some n =>
    simp only [wakeEnd]
    split
    · exact keeps_finish s _ _ _ _
    · exact keeps_proceed s c _

theorem keeps_wakeVisit (c : CtxId) (o : Operation) (dest : Option LineId) (frames : Nat) (taps : List MixTap)
    (i : Nat) : Keeps s (wakeVisit c o dest frames taps i s) := by
  unfold wakeVisit
  split
  · exact .refl s
  dsimp only
  split
  · exact keeps_finish s _ _ _ _
  next hopen =>
  split
  · exact keeps_finish s _ _ _ _
  split
  · exact keeps_finish s _ _ _ _
  split
  · exact keeps_finish s _ _ _ _
  split
  · split
    · exact (keeps_keepTap s c o _ _).trans (keeps_setStage _ c _)
    · exact (keeps_keepTap s c o _ _).trans (keeps_wakeEnd _ c o _)
  split
  · exact keeps_finish s _ _ _ _
  · exact (keeps_keepTap s c o _ _).trans (keeps_parkRead _ c _ _ (by simp_all) (by simp; omega))

theorem keeps_joinVisit (c : CtxId) (o : Operation) (n : LineId) (frames : Nat) : Keeps s (joinVisit c o n frames s) := by
  unfold joinVisit
  dsimp only
  split
  · exact keeps_finish s _ _ _ _
  split
  · exact keeps_finish s _ _ _ _
  split
  · exact keeps_finish s _ _ _ _
  · have hline : ∀ g, (s.modCtx c g).line n = s.line n := fun g => by simp [State.line]
    refine .trans ?_ (keeps_joinQueue _ c (by rw [hline]; simp_all) (by rw [hline]; omega) (by rw [hline]; omega))
    exact keeps_modCtx s fun _ => rfl

/-- A writer that leaves its line without moving lets go of it (R22, R119). -/
theorem keeps_letGo (n : LineId) : Keeps s (drainTest n (leaveHead n s)) :=
  (keeps_leaveHead s n).trans (keeps_drainTest _ n)

theorem keeps_failGrant (m : MoverId) (c : CtxId) (dest : Option LineId) (earlier : List LineId) (r : Settled) :
    Keeps s (failGrant m c dest earlier r s) := by
  have pinsGone := (keeps_setMover s m none).trans (keeps_removePins _ earlier c)
  unfold failGrant
  cases dest with
  | none => exact pinsGone.trans (keeps_finish _ _ _ _ _)
  | some n => exact (pinsGone.trans (keeps_letGo _ n)).trans (keeps_finish _ _ _ _ _)

theorem keeps_grantVisit (m : MoverId) (c : CtxId) (o : Operation) (dest : Option LineId) (frames : Nat)
    (taps : List MixTap) (k : Nat) : Keeps s (grantVisit m c o dest frames taps k s) := by
  unfold grantVisit
  dsimp only
  split
  · exact .refl s
  split
  · exact keeps_failGrant s m c dest _ _
  split
  · exact (keeps_placePin s _ _).trans (keeps_setStage _ c _)
  · refine .trans ?_ (keeps_pump _ m)
    refine .trans ?_ (keeps_setMover _ m _)
    refine .trans ?_ (keeps_modCtx _ fun _ => rfl)
    exact keeps_placePin s _ _

theorem keeps_mixDecided (m : MoverId) (c : CtxId) (dest : Option LineId) (r : Settled) :
    Keeps s (mixDecided m c dest r s) := by
  unfold mixDecided
  split
  · exact (keeps_setMover s m none).trans (keeps_finish _ _ _ _ _)
  · exact keeps_setStage s c _

theorem keeps_endVisit (m : MoverId) (mv : Mover) (c : CtxId) (o : Operation) (dest : Option LineId)
    (taps : List MixTap) (k : Nat) : Keeps s (endVisit m mv c o dest taps k s) := by
  unfold endVisit
  dsimp only
  split
  · exact .refl s
  · next n _ =>
    have pinGone := (keeps_setMover s m (some { mv with overtaken := lowerTap mv.overtaken (overtakenOn n o taps s) })).trans
      (keeps_removePin _ n c)
    split
    · exact pinGone.trans (keeps_setStage _ c _)
    · exact pinGone.trans (keeps_mixDecided _ m c dest _)

/-! ### Grants and accesses refused -/

theorem keeps_grantWriter (m : MoverId) (c : CtxId) : Keeps s (grantWriter m c s) :=
  ((keeps_setPhase s c _).trans (keeps_setMover _ m _)).trans (keeps_pump _ m)

theorem keeps_grantQuery (m : MoverId) (c : CtxId) (report : List Byte) (p a : Nat) :
    Keeps s (grantQuery m c report p a s) := (keeps_setPhase s c _).trans (keeps_setMover _ m _)

theorem keeps_takeGrant (m : MoverId) (c : CtxId) (o : Operation) (b : Body) : Keeps s (takeGrant m c o b s) := by
  cases b with
  | deposit => exact keeps_grantWriter s m c
  | skip => exact keeps_grantWriter s m c
  | tap => exact keeps_grantTap s m _ c o _
  | mix => exact ((keeps_setStage s c _).trans (keeps_setMover _ m _)).trans (keeps_grantVisit _ m c o _ _ _ 0)
  | queryLine => exact keeps_grantQuery s m c _ _ _
  | queryStore => exact keeps_grantQuery s m c _ _ _
  | _ => exact .refl s

theorem keeps_abandonReads (m : MoverId) : Keeps s (abandonReads m s) := keeps_setHost s id id fun _ _ e => e

theorem keeps_refuseAccess (m : MoverId) : Keeps s (refuseAccess m s) := by
  unfold refuseAccess
  split
  · exact .refl s
  split
  · exact .refl s
  · dsimp only
    refine .trans ?_ (keeps_finish _ _ _ _ _)
    split
    · exact ((keeps_abandonReads s m).trans (keeps_setMover _ m none)).trans (keeps_removePins _ _ _)
    · exact (((keeps_abandonReads s m).trans (keeps_setMover _ m none)).trans (keeps_removePins _ _ _)).trans
        (keeps_letGo _ _)

end Sys2Proof.Machine

/-! PROOF. What fetching, the Response Unit, the register window, the store and the resets keep. -/

namespace Sys2Proof.Machine

variable (s : State)

/-! ### Fetching -/

theorem keeps_dropFetch : Keeps s (s.setFetch none) where
  laws := {
    store := storeOk_congr rfl
    blocks := fun _ => blocksOk_congr rfl rfl
    records := recordsOk_congr rfl
    contexts := fun ⟨hc, he⟩ => ⟨fun k => by
      obtain ⟨h1, h2⟩ := hc k
      have hle : heldContexts k (s.setFetch none) ≤ heldContexts k s := by simp [heldContexts]
      exact ⟨hle.trans h1, fun e => Nat.le_zero.1 (hle.trans (h2 e).le)⟩, fun _ => rfl⟩
    resp := respOk_congr rfl
    queue := queueOk_congr rfl
    idling := fun _ _ e => e }
  lines := linesKept_congr rfl

/-- The fetch in progress goes on to its second slot (R47). -/
theorem keeps_fetchOn {f : Fetch} (bs : List Byte) (hf : s.fetcher.fetch = some f) :
    Keeps s (s.setFetch (some { f with first := some bs })) where
  laws := {
    store := storeOk_congr rfl
    blocks := fun _ => blocksOk_congr rfl rfl
    records := recordsOk_congr rfl
    contexts := fun ⟨hc, he⟩ => ⟨fun k => by simpa [heldContexts, hf] using hc k,
      fun e => by have := he e; simp [hf] at this⟩
    resp := respOk_congr rfl
    queue := queueOk_congr rfl
    idling := fun _ _ e => e }
  lines := linesKept_congr rfl

/-- The context reserved for a fetch joins its ring's window (R47, R54). -/
theorem keeps_reservedTaken {f : Fetch} {x : CmdRing} (hf : s.fetcher.fetch = some f)
    (hw : x.window = (s.ring f.ring).window ++ [f.ctx]) (hs : x.windowSize = (s.ring f.ring).windowSize)
    (hd : x.state = (s.ring f.ring).state) : Keeps s ((s.setFetch none).setRing f.ring x) where
  laws := {
    store := storeOk_congr rfl
    blocks := fun _ => blocksOk_congr rfl rfl
    records := recordsOk_congr rfl
    contexts := fun ⟨hc, he⟩ => ⟨fun k => by
      obtain ⟨h1, h2⟩ := hc k
      by_cases hk : k = f.ring
      · subst hk
        have hheld : heldContexts f.ring ((s.setFetch none).setRing f.ring x) = heldContexts f.ring s := by
          simp [heldContexts, hf, hw]
        rw [hheld, State.setRing_same, hs, hd]
        exact ⟨h1, h2⟩
      · have hheld : heldContexts k ((s.setFetch none).setRing f.ring x) = heldContexts k s := by
          simp [heldContexts, hf, hk, Ne.symm hk]
        rw [hheld, State.setRing_other _ _ _ _ hk]
        exact ⟨h1, h2⟩, fun _ => rfl⟩
    resp := respOk_congr rfl
    queue := queueOk_congr rfl
    idling := fun _ _ e => e }
  lines := linesKept_congr rfl

/-- The record of a context just taken has passed decode (R50). -/
theorem newOperation_wf {k : RingId} {take slots : Nat} {bytes : List Byte} {b : Body}
    (h : (newOperation k take slots bytes).body = some b) : wfBody b = true := by
  unfold newOperation at h
  dsimp only at h
  split at h
  · next r hr => cases h; exact (decodedRecordsAreInRange.1 k bytes r hr).1
  · cases h
  · cases h

theorem keeps_takeRecord {f : Fetch} (bytes : List Byte) (hf : s.fetcher.fetch = some f) :
    Keeps s (takeRecord f bytes s) := by
  unfold takeRecord
  dsimp only
  have taken := keeps_reservedTaken s hf (x := { s.ring f.ring with
    take := ((s.ring f.ring).take + byteAt bytes 1) % (s.ring f.ring).size
    window := (s.ring f.ring).window ++ [f.ctx] }) rfl rfl rfl
  have made := taken.trans (keeps_setCtx _ (c := f.ctx)
    (x := some (newOperation f.ring (s.ring f.ring).take (byteAt bytes 1) bytes))
    fun _ o b ho hb => by cases ho; exact newOperation_wf hb)
  split
  · exact made
  · exact made.trans (keeps_finish _ _ _ _ _)
  · exact made.trans (keeps_finish _ _ _ _ _)

theorem keeps_endFetch {f : Fetch} (bytes : List Byte) (hf : s.fetcher.fetch = some f) :
    Keeps s (endFetch f bytes s) := by
  unfold endFetch
  split
  · exact keeps_takeRecord s bytes hf
  · exact keeps_dropFetch s

theorem keeps_firstSlot {f : Fetch} (bytes : List Byte) (hf : s.fetcher.fetch = some f) :
    Keeps s (firstSlot f bytes s) := by
  unfold firstSlot
  dsimp only
  split
  · exact (keeps_dropFetch s).trans (keeps_stopRing _ _ _)
  split
  · exact keeps_endFetch s bytes hf
  split
  · exact (keeps_fetchOn s bytes hf).trans (keeps_askRead _ _ _ _)
  split
  · refine .trans (keeps_dropFetch s) ?_
    exact keeps_setRing _ le_rfl rfl id
  · exact keeps_dropFetch s

theorem keeps_fetchArrived (bytes : List Byte) : Keeps s (fetchArrived bytes s) := by
  unfold fetchArrived
  split
  · exact .refl s
  · next f hf =>
    split
    · exact keeps_firstSlot s bytes hf
    · exact keeps_endFetch s _ hf

theorem keeps_fetchFailed : Keeps s (fetchFailed s) := by
  unfold fetchFailed
  split
  · exact .refl s
  · exact (keeps_dropFetch s).trans (keeps_stopRing _ _ _)

theorem keeps_dropRead (n : Nat) : Keeps s (dropRead n s) := keeps_setHost s id id fun _ _ e => e

theorem keeps_readFailed (x : HostRead) : Keeps s (readFailed x s) := by
  unfold readFailed
  split
  · exact keeps_fetchFailed s
  · exact keeps_transferFailed s _ _
  · exact .refl s

theorem keeps_readArrived (x : HostRead) (bytes : List Byte) : Keeps s (readArrived x bytes s) := by
  unfold readArrived
  split
  · exact keeps_fetchArrived s bytes
  · exact keeps_transferArrived s _ _ bytes
  · exact .refl s

/-- The ring the arbiter grants is eligible (R46). -/
theorem eligible_of_granted {k : RingId} {level : Option (Fin 4)} (h : grantedRing s = some (k, level)) :
    eligible s k = true := by
  cases h0 : eligible s 0 with
  | true =>
    rw [grantedRing_of_control s h0] at h
    obtain ⟨rfl, rfl⟩ : (0 : RingId) = k ∧ none = level := by simpa using h
    exact h0
  | false =>
    obtain ⟨p, -, hk, -⟩ := grantedRing_work_some s h0 h
    exact (grantAtLevel_eq_some s hk).2.2.1

/-- A context is reserved for a fetch of an eligible ring (R45, R54). -/
theorem keeps_reserve {k : RingId} (c : CtxId) (last : Table Nat 4) (h : eligible s k = true) :
    Keeps s { s with fetcher := { s.fetcher with lastGrant := last, fetch := some ⟨k, c, none⟩ } } where
  laws := {
    store := storeOk_congr rfl
    blocks := fun _ => blocksOk_congr rfl rfl
    records := recordsOk_congr rfl
    contexts := fun ⟨hc, he⟩ => by
      obtain ⟨hrun, -, -, hroom, -, hfetch, hon, -⟩ := (eligible_iff s k).1 h
      refine ⟨fun j => ?_, fun e => absurd hon e⟩
      obtain ⟨h1, h2⟩ := hc j
      rw [hfetch] at hroom
      simp only [heldContexts, hfetch, State.ring] at h1 h2 hroom hrun ⊢
      by_cases hj : j = k
      · subst hj
        exact ⟨by simpa using hroom, fun e => by rw [hrun] at e; cases e⟩
      · simpa [Ne.symm hj] using And.intro h1 h2
    resp := respOk_congr rfl
    queue := queueOk_congr rfl
    idling := fun _ _ e => e }
  lines := linesKept_congr rfl

/-- A ring is given an entry with no context, none being fetched for it. -/
theorem keeps_emptyRing {k : RingId} {x : CmdRing} (hw : x.window = [])
    (hf : ContextsOk s → ∀ f, s.fetcher.fetch = some f → f.ring ≠ k) : Keeps s (s.setRing k x) where
  laws := {
    store := storeOk_congr rfl
    blocks := fun _ => blocksOk_congr rfl rfl
    records := recordsOk_congr rfl
    contexts := fun h => by
      refine ⟨fun j => ?_, h.2⟩
      by_cases hj : j = k
      · subst hj
        have hheld : heldContexts j (s.setRing j x) = 0 := by
          rw [heldContexts_eq, State.setRing_same, hw]
          cases hs : s.fetcher.fetch with
          | none => simp [hs]
          | some f => simp [hs, hf h f hs]
        exact ⟨by omega, fun _ => hheld⟩
      · have e : heldContexts j (s.setRing k x) = heldContexts j s := by simp [heldContexts, hj]
        rw [e, State.setRing_other _ _ _ _ hj]
        exact h.1 j
    resp := respOk_congr rfl
    queue := queueOk_congr rfl
    idling := fun _ _ e => e }
  lines := linesKept_congr rfl

/-- A ring that holds no context is not being fetched (R54). -/
theorem not_fetched_of_held {k : RingId} (h : heldContexts k s = 0) (f : Fetch) (hf : s.fetcher.fetch = some f) :
    f.ring ≠ k := by
  rintro rfl
  simp [heldContexts, hf] at h

/-! ### Response rings -/

theorem keeps_interruptIf (b : Bool) (r : RespId) : Keeps s (if b then sendInterrupt r s else s) := by
  split
  · exact keeps_sendInterrupt s r
  · exact .refl s

/-- A response ring's entry becomes FAULTED (R149). -/
theorem keeps_setFaulted (r : RespId) (x : Option FaultInfo) :
    Keeps s (s.setRespRing r { s.respRing r with state := .faulted, fault := x }) :=
  keeps_setRespRing s fun ⟨h, _⟩ => ⟨h, fun e => by simp at e⟩

theorem keeps_faultResp (r : RespId) (x : FaultInfo) : Keeps s (faultResp r x s) := by
  unfold faultResp
  dsimp only
  refine .trans ?_ (keeps_dropItemWait _)
  refine .trans ?_ (keeps_foldl (fun t k _ => keeps_stopRing t k _) _)
  split
  · exact ((keeps_setFaulted s r _).trans (keeps_discardPosts _ r)).trans (keeps_interruptIf _ _ r)
  · refine .trans ?_ (keeps_raiseRespFaulted _ r x)
    exact ((keeps_setFaulted s r _).trans (keeps_discardPosts _ r)).trans (keeps_interruptIf _ _ r)

theorem keeps_release (r : RespId) (v : Nat) : Keeps s (release r v s) := by
  unfold release
  dsimp only
  split
  · split
    · exact keeps_faultResp s r _
    · split
      · exact keeps_faultResp s r _
      · refine keeps_setRespRing s fun ⟨h1, h2⟩ => ⟨?_, fun e => ⟨(h2 e).1, ?_⟩⟩
        · dsimp only; omega
        · dsimp only; omega
  · exact .refl s

theorem keeps_countItem (r : RespId) (counts : Bool) : Keeps s (countItem r counts s) := by
  unfold countItem
  dsimp only
  split
  · split
    · refine .trans ?_ (keeps_sendInterrupt _ r)
      exact keeps_setRespRing s id
    · exact keeps_setRespRing s id
  · exact .refl s

@[simp] theorem discardItem_respRing (i : PostItem) (r : RespId) : (discardItem s i).respRing r = s.respRing r := by
  cases i <;> simp [discardItem, State.respRing]

theorem nextItem_room {x : Posted} (h : nextItem s = some x) :
    (s.respRing x.ring).state = .active ∧ (s.respRing x.ring).unreleased < (s.respRing x.ring).size := by
  simpa [canWrite] using List.find?_some h

theorem keeps_writeItem {x : Posted} (hx : nextItem s = some x) (hp : hasPlace .item 1 s = true) :
    Keeps s (writeItem x s) := by
  unfold writeItem
  dsimp only
  obtain ⟨hactive, hroom⟩ := nextItem_room s hx
  simp only [hasPlace, Bool.and_eq_true, decide_eq_true_eq] at hp
  refine .trans ?_ (keeps_countItem _ _ _)
  have placed := keeps_takePlace s .item (ws := [itemWriteOf s x]) hp.1
  refine .trans ((placed.trans (keeps_setPosts _ (s.resp.posts.erase x))).trans (keeps_discardItem _ x.item)) ?_
  refine keeps_setRespRing _ fun ⟨h1, h2⟩ => ?_
  simp only [discardItem_respRing] at h1 h2 ⊢
  have hring : ∀ p, ((takePlace .item [itemWriteOf s x] s).setPosts p).respRing x.ring = s.respRing x.ring := by
    intro p; simp [State.respRing, State.setPosts]
  rw [hring] at h1 h2 ⊢
  exact ⟨hroom, fun e => ⟨Nat.mod_lt _ (by omega), (h2 e).2⟩⟩

/-! ### The register window -/

theorem respRingOk_new (h : HostPort) : RespRingOk (responseRing0 h) := by
  have : 0 < 2 ^ h.resp0Size.toNat := by positivity
  simp [RespRingOk, responseRing0, RespRing.absentRing]

/-- ENABLE takes effect: nothing is being fetched, so ring 0 holds no context (R62, R164). -/
theorem keeps_enableTakesEffect (h : s.host.enable ≠ .on) : Keeps s (enableTakesEffect s) := by
  have ring : Keeps s (s.setRing 0 (controlRing s.host (s.ring 0))) :=
    keeps_emptyRing s rfl fun hc f hf => by rw [hc.2 h] at hf; cases hf
  have on : Keeps s (((s.setHost { s.host with enable := .on }).setRing 0 (controlRing s.host (s.ring 0))).setRespRing 0
      (responseRing0 s.host)) := by
    refine .trans (ring.trans ?_) (keeps_setRespRing _ fun _ => respRingOk_new s.host)
    exact keeps_setHost _ (fun e => absurd e h) id fun _ _ e => e
  unfold enableTakesEffect
  dsimp only
  split
  · exact on.trans (keeps_raiseStoreFault _)
  · exact on

theorem keeps_writeConfig (reg : ConfigReg) (v : Word32) : Keeps s (writeConfig reg v s) := by
  unfold writeConfig
  split
  · cases reg <;> exact keeps_setHost s id id fun _ _ e => e
  · exact .refl s

theorem keeps_writeIdleDelay (v : Word32) : Keeps s (writeIdleDelay v s) := keeps_setHost s id id fun _ _ e => e

theorem keeps_writePost (k : RingId) (v : Nat) : Keeps s (writePost k v s) := by
  have woken : Keeps s (postWoken s k) := by
    unfold postWoken
    split
    · exact keeps_quietWake s
    · exact .refl s
  by_cases h : (s.ring k).state = .running ∨ (s.ring k).state = .paused
  · by_cases hv : v < (s.ring k).size
    · rw [writePost_below h hv]
      refine woken.trans ?_
      exact keeps_setRing _ le_rfl rfl id
    · rw [writePost_above h hv]
      exact woken.trans (keeps_stopRing _ k _)
  · rw [writePost_other h]
    exact woken

/-! ### The resets -/

/-- The extents lie in the store and no block lies in two of them. -/
def Laid (es : List Extent) : Prop := es.Pairwise Apart ∧ ∀ e ∈ es, 1 ≤ e.count ∧ e.start + e.count ≤ Config.storeBlocks

theorem Laid.perm {es fs : List Extent} (h : es.Perm fs) : Laid es ↔ Laid fs := by
  unfold Laid
  rw [h.pairwise_iff (R := Apart) Apart.symm]
  simp only [h.mem_iff]

/-- The extents a function or link reset leaves a line: an OPEN line's (R19). -/
def keptExtents (l : Line) : List Extent := if l.state = .opened then l.extents else []

/-- The reset's return of the extents of every CLOSING line keeps the laws of the blocks (R40). -/
theorem reset_lawful (rows : List Line) (ks fs : List Extent) (hfree : ∀ l ∈ rows, l.state = .free → l.extents = [])
    (hf : FreeTableOk fs) (hl : Laid (ks ++ (rows.flatMap Line.extents ++ fs))) :
    FreeTableOk (rows.foldl (fun t l => if l.state = .closing then returnExtents l.extents t else t) fs) ∧
      Laid (ks ++ (rows.flatMap keptExtents ++
        rows.foldl (fun t l => if l.state = .closing then returnExtents l.extents t else t) fs)) ∧
      blocksOf (rows.flatMap keptExtents) +
          blocksOf (rows.foldl (fun t l => if l.state = .closing then returnExtents l.extents t else t) fs) =
        blocksOf (rows.flatMap Line.extents) + blocksOf fs := by
  induction rows generalizing ks fs with
  | nil => exact ⟨hf, hl, rfl⟩
  | cons l ls ih =>
    have hfree' := fun x hx => hfree x (List.mem_cons_of_mem l hx)
    simp only [List.flatMap_cons, List.foldl_cons, blocksOf_append] at hl ⊢
    cases hs : l.state with
    | free =>
      have hkept : keptExtents l = [] := by simp [keptExtents, hs]
      rw [hfree l List.mem_cons_self hs] at hl ⊢
      simp only [hkept, List.nil_append, reduceCtorEq, if_false] at hl ⊢
      obtain ⟨h1, h2, h3⟩ := ih ks fs hfree' hf hl
      exact ⟨h1, h2, by omega⟩
    | opened =>
      have hkept : keptExtents l = l.extents := by simp [keptExtents, hs]
      simp only [hkept, reduceCtorEq, if_false]
      obtain ⟨h1, h2, h3⟩ := ih (ks ++ l.extents) fs hfree' hf (by simpa only [List.append_assoc] using hl)
      exact ⟨h1, by simpa only [List.append_assoc] using h2, by omega⟩
    | closing =>
      have hkept : keptExtents l = [] := by simp [keptExtents, hs]
      simp only [hkept, List.nil_append, if_true, blocksOf_nil]
      have hperm : (ks ++ (l.extents ++ ls.flatMap Line.extents ++ fs)).Perm
          (l.extents ++ ((ks ++ ls.flatMap Line.extents) ++ fs)) := by
        simp only [List.append_assoc]
        exact List.perm_append_comm_assoc _ _ _
      obtain ⟨hp, hb⟩ := (Laid.perm hperm).1 hl
      obtain ⟨hok, hp', hb'⟩ := returned_lawful hf hp hb
      obtain ⟨h1, h2, h3⟩ := ih ks _ hfree' hok (by
        have : Laid ((ks ++ ls.flatMap Line.extents) ++ returnExtents l.extents fs) := ⟨hp', hb'⟩
        simpa only [List.append_assoc] using this)
      exact ⟨h1, h2, by rw [Nat.zero_add, h3, blocksOf_returnExtents]; omega⟩

variable {s} in
/-- A line that is not OPEN is FREE after a function or link reset (R19). -/
theorem resetLine_of_not_opened {n : LineId} (h : (s.line n).state ≠ .opened) : resetLine s n = Line.freeLine := by
  unfold resetLine
  dsimp only
  split
  · rfl
  · rfl
  · exact absurd ‹_› h

variable {s} in
theorem resetLine_of_opened {n : LineId} (h : (s.line n).state = .opened) : resetLine s n =
    { s.line n with
      f := if movingFrames n s = 0 then (s.line n).f else abandonedFloor (s.line n) (movingFrames n s)
      writers := []
      park := []
      pins := []
      lapPending := false
      held := false } := by
  simp only [resetLine, h]

theorem resetLine_extents (n : LineId) : (resetLine s n).extents = keptExtents (s.line n) := by
  by_cases h : (s.line n).state = .opened
  · simp [resetLine_of_opened h, keptExtents, h]
  · simp [resetLine_of_not_opened h, keptExtents, h, Line.freeLine]

theorem movingFrames_eq (n : LineId) :
    movingFrames n s = 0 ∨ ∃ x ∈ (s.line n).writers, x.frames = movingFrames n s := by
  unfold movingFrames
  split
  · exact .inl rfl
  · next h =>
    split
    · exact .inr ⟨_, by rw [h]; exact List.mem_cons_self, rfl⟩
    · exact .inl rfl

theorem lineOk_resetLine {n : LineId} (h : LineOk (s.line n)) :
    LineOk (resetLine s n) ∧ LineGrows (s.line n) (resetLine s n) := by
  obtain ⟨h1, h2, h3, h4, h5, h6⟩ := id h
  by_cases ho : (s.line n).state = .opened
  · rw [resetLine_of_opened ho]
    have hfloor : (s.line n).f ≤ (if movingFrames n s = 0 then (s.line n).f else abandonedFloor (s.line n) (movingFrames n s)) ∧
        (if movingFrames n s = 0 then (s.line n).f else abandonedFloor (s.line n) (movingFrames n s)) ≤ (s.line n).w := by
      split
      · exact ⟨le_rfl, h1⟩
      · next hm =>
        obtain ⟨x, hx, he⟩ := (movingFrames_eq s n).resolve_left hm
        have := h3 x hx
        unfold abandonedFloor
        omega
    refine ⟨⟨hfloor.2, ?_, by simp, by simp, by simp, fun e => by simp [ho] at e⟩, fun e => by simp [ho] at e,
      fun e => by simp [ho] at e, fun _ => ⟨le_rfl, hfloor.1, rfl, rfl, rfl⟩⟩
    simp only [queuedFrames] at h2 ⊢
    simp
    omega
  · rw [resetLine_of_not_opened ho]
    exact ⟨lineOk_freeLine, fun _ => rfl, fun _ => by simp [Line.freeLine], fun e => absurd rfl e⟩

theorem functionReset_line (cause : ResetCause) (n : LineId) : (functionReset cause s).line n = resetLine s n := by
  simp [functionReset, State.line, Table.get]

theorem rows_eq (t : Table Line 256) : t.rows = (List.finRange 256).map t.get := by
  refine List.ext_getElem (by simp [t.len]) fun i h1 h2 => ?_
  simp [Table.get]

theorem heldExtents_functionReset (cause : ResetCause) :
    heldExtents (functionReset cause s) = s.lines.rows.flatMap keptExtents := by
  rw [rows_eq s.lines]
  simp only [heldExtents, functionReset, List.flatMap_map, resetLine_extents]
  rfl

theorem contextsOk_reset {t : State} (hr : t.fetcher = RingFetcher.reset) : ContextsOk t := by
  have hring : ∀ k, t.ring k = CmdRing.disabledRing := fun k => by simp [State.ring, hr, RingFetcher.reset]
  have hfetch : t.fetcher.fetch = none := by simp [hr, RingFetcher.reset]
  exact ⟨fun k => by simp [heldContexts, hring, hfetch, CmdRing.disabledRing], fun _ => hfetch⟩

theorem recordsOk_reset {t : State} (h : t.sched = Scheduler.reset) : RecordsOk t := fun c o b hc => by
  simp [State.ctx, h, Scheduler.reset] at hc

theorem respOk_reset {t : State} (h : t.resp = ResponseUnit.reset) : RespOk t := fun r => by
  have hr : t.respRing r = RespRing.absentRing := by simp [State.respRing, h, ResponseUnit.reset]
  simp [hr, RespRing.absentRing]

theorem keeps_functionReset (cause : ResetCause) : Keeps s (functionReset cause s) where
  laws := {
    store := id
    blocks := fun _ ⟨h1, h2, h3, h4, h5⟩ => by
      have hfree : ∀ l ∈ s.lines.rows, l.state = .free → l.extents = [] := by
        rw [rows_eq s.lines]
        exact List.forall_mem_map.2 fun n _ => h5 n
      obtain ⟨g1, g2, g3⟩ := reset_lawful s.lines.rows [] s.store.freeExts hfree h1 ⟨h2, h3⟩
      rw [List.nil_append] at g2
      unfold BlocksOk
      rw [heldExtents_functionReset]
      refine ⟨g1, g2.1, g2.2, g3.trans h4, fun n hn => ?_⟩
      rw [functionReset_line] at hn ⊢
      rw [resetLine_extents]
      by_cases ho : (s.line n).state = .opened
      · simp [resetLine_of_opened ho, ho] at hn
      · simp [keptExtents, ho]
    records := fun _ => recordsOk_reset rfl
    contexts := fun _ => contextsOk_reset rfl
    resp := fun _ => respOk_reset rfl
    queue := id
    idling := fun _ _ e => by simp [functionReset, resetHost] at e }
  lines n hn := by rw [functionReset_line]; exact lineOk_resetLine s hn

theorem keeps_linkReset (lost : Bool) : Keeps s (linkReset lost s) := by
  refine (keeps_functionReset s .link).trans ?_
  exact keeps_setHost _ (fun e => by simp [functionReset, resetHost] at e) (fun _ => by simp [HostPort.reset])
    fun _ _ e => by simp [HostPort.reset] at e

/-- The laws of the blocks and lines hold where every line is FREE and the store is whole. -/
theorem blocksOk_reset {t : State} (hl : t.lines = Table.fill 256 Line.freeLine)
    (hs : t.store.freeExts = [⟨0, Config.storeBlocks⟩]) : BlocksOk t := by
  have hheld : heldExtents t = [] := by
    refine List.flatMap_eq_nil_iff.2 fun l hmem => ?_
    rw [hl] at hmem
    rw [List.eq_of_mem_replicate hmem]
    rfl
  have hblocks : 1 ≤ Config.storeBlocks := by decide
  refine ⟨?_, ?_, ?_, ?_, fun n _ => by simp [State.line, hl, Line.freeLine]⟩
  · simp [hs, FreeTableOk, hblocks]
  · simp [hheld, hs]
  · simp [hheld, hs, hblocks]
  · simp [hheld, hs, blocksOf]

theorem storeOk_reset {t : State} (h : t.store = StoreController.reset) : StoreOk t := by
  simp [StoreOk, h, StoreController.reset, Memory.wf, Memory.wfFrom]

theorem keeps_powerReset (cause : ResetCause) : Keeps s (powerReset cause s) where
  laws := {
    store := fun _ => storeOk_reset rfl
    blocks := fun _ _ => blocksOk_reset rfl rfl
    records := fun _ => recordsOk_reset rfl
    contexts := fun _ => contextsOk_reset rfl
    resp := fun _ => respOk_reset rfl
    queue := fun _ => by simp [QueueOk, powerReset, HostPort.reset]
    idling := fun _ _ e => by simp [powerReset, HostPort.reset] at e }
  lines n hn := by
    have h : (powerReset cause s).line n = Line.freeLine := by simp [powerReset, State.reset, State.line]
    rw [h]
    exact ⟨lineOk_freeLine, fun _ => rfl, fun _ => by simp [Line.freeLine], fun e => absurd rfl e⟩

theorem keeps_writeEnable (bit : Bool) : Keeps s (writeEnable bit s) := by
  unfold writeEnable
  dsimp only
  refine (keeps_quietWake s).trans ?_
  generalize quietWake s = u
  split
  · exact .refl u
  · next hoff =>
    have held (e : Enable) (b : Bool) : Keeps u (u.setHost { u.host with enable := e, configError := b }) :=
      keeps_setHost u (fun h => by simp [hoff] at h) id fun _ _ h => h
    split
    · split
      · exact held .held false
      · exact (held .held false).trans (keeps_enableTakesEffect _ (by simp))
    · exact keeps_setHost u id id fun _ _ e => e
  · exact .refl u
  · exact keeps_functionReset u .function
  · exact .refl u
  · next hheld => exact keeps_setHost u (fun h => by simp [hheld] at h) id fun _ _ e => e

theorem keeps_writeWindow (offset : Nat) (v : Word32) : Keeps s (writeWindow offset v s) := by
  unfold writeWindow
  repeat' split
  · exact keeps_writeEnable s _
  · exact keeps_writeIdleDelay s v
  iterate 7 exact keeps_writeConfig s _ v
  · exact keeps_writePost s _ _
  · exact keeps_release s _ _
  · exact .refl s

/-! ### The store -/

theorem keeps_readBurstDone (a : Access) : Keeps s (readBurstDone a s) := by
  have counted : Keeps s (s.setStore { s.store with
      busy := none, corrected := countUp s.store.corrected (singleWords s.store.marks (wordsOf a.addr a.len)).length }) :=
    keeps_setStore s (fun ⟨h1, h2, h3, h4⟩ => ⟨h1, h2, Nat.min_le_left _ _, h4⟩) rfl
  unfold readBurstDone
  dsimp only
  split
  · exact counted
  · exact counted.trans (keeps_deliver _ _ _ _ _)

theorem keeps_writeBurstDone (a : Access) (bytes : List Byte) : Keeps s (writeBurstDone a bytes s) := by
  unfold writeBurstDone
  dsimp only
  split
  · exact keeps_setStore s (fun ⟨h1, h2, h3, h4⟩ => ⟨Memory.wf_writeBytes _ _ h1, h2, Nat.min_le_left _ _, h4⟩) rfl
  · refine .trans ?_ (keeps_stored _ _ _)
    exact keeps_setStore s (fun ⟨h1, h2, h3, h4⟩ => ⟨Memory.wf_writeBytes _ _ h1, h2, Nat.min_le_left _ _, h4⟩) rfl

theorem keeps_calibrated (b : Bool) : Keeps s (calibrated b s) :=
  keeps_setStore s (fun ⟨h1, _, h3, h4⟩ => ⟨h1, Nat.zero_le _, h3, h4⟩) rfl

theorem keeps_enterSelfRefresh : Keeps s (enterSelfRefresh s) :=
  keeps_setStore s (fun ⟨h1, _, h3, h4⟩ => ⟨h1, Nat.zero_le _, h3, h4⟩) rfl

theorem keeps_quieted (p : Option (List Nat)) : Keeps s (s.setHost { s.host with quiesce := .quiet p }) :=
  keeps_setHost s id id fun _ _ e => by cases e

theorem keeps_compareSnapshot (p : List Nat) : Keeps s (compareSnapshot p s) := by
  unfold compareSnapshot
  split
  · exact keeps_quieted s none
  · exact keeps_quietWake s

end Sys2Proof.Machine

/-! PROOF. What the control records keep, and with them every command. -/

namespace Sys2Proof.Machine

variable (s : State)

/-! ### CLOSE_LINE -/

/-- Line `n` is given other settings while it is not FREE, its laws' values as they are. -/
theorem keeps_settings {n : LineId} {x : Line} (ho : (s.line n).state ≠ .free) (hx : x.state ≠ .free)
    (hc : (s.line n).state = .closing → x.state ≠ .opened)
    (hs : { s.line n with state := x.state, policy := x.policy, lap := x.lap, held := x.held } = x) :
    Keeps s (s.setLine n x) := by
  have hw : x.w = (s.line n).w := (congrArg Line.w hs).symm
  have hf : x.f = (s.line n).f := (congrArg Line.f hs).symm
  have hcap : x.cap = (s.line n).cap := (congrArg Line.cap hs).symm
  have hch : x.channels = (s.line n).channels := (congrArg Line.channels hs).symm
  have he : x.extents = (s.line n).extents := (congrArg Line.extents hs).symm
  have hq : x.writers = (s.line n).writers := (congrArg Line.writers hs).symm
  have hp : x.park = (s.line n).park := (congrArg Line.park hs).symm
  refine keeps_setLine s he (fun e => absurd e hx) fun ⟨h1, h2, h3, h4, h5, _⟩ => ⟨⟨by omega, ?_, ?_, ?_, ?_,
    fun e => absurd e hx⟩, fun e => absurd e ho, hc, fun _ => ⟨hw.ge, hf.ge, hch, hcap, he⟩⟩
  · rw [queuedFrames, hq, hw]; exact h2
  · rw [hq, hcap]; exact h3
  · rw [hp]; exact h4
  · rw [hp, hw]; exact h5

theorem keeps_withdrawLap (n : LineId) : Keeps s (withdrawLap n s) := (keeps_setPosts s _).trans (keeps_clearLap _ n)

theorem keeps_abortAll (cs : List CtxId) : Keeps s (abortAll cs s) :=
  keeps_foldl (fun t c _ => keeps_finish t c _ _ _) s

theorem keeps_abortParked (n : LineId) : Keeps s (abortParked n s) :=
  ((keeps_setPark s n (List.nil_sublist _)).trans (keeps_setParkTimer _ _)).trans (keeps_abortAll _ _)

theorem closeSplit_kept_sublist (n : LineId) : (closeSplit n s).2.Sublist (s.line n).writers := by
  unfold closeSplit
  split
  · exact List.nil_sublist _
  · next h =>
    rw [h]
    split
    · exact List.nil_sublist _
    · exact List.singleton_sublist.2 List.mem_cons_self

theorem keeps_abortWriters (n : LineId) : Keeps s (abortWriters n s) :=
  (keeps_setWriters s n (closeSplit_kept_sublist s n)).trans (keeps_abortAll _ _)

theorem giveMarks_ctx (n : LineId) (c : CtxId) : (giveMarks n s).ctx c =
    (s.ctx c).map fun o => if getsMark n o then { o with marks := n :: o.marks } else o := by
  simp [giveMarks, State.ctx]

theorem keeps_giveMarks (n : LineId) : Keeps s (giveMarks n s) where
  laws := {
    store := storeOk_congr rfl
    blocks := fun _ => blocksOk_congr rfl rfl
    records := fun hr c o b hc hb => by
      rw [giveMarks_ctx] at hc
      obtain ⟨q, hq, rfl⟩ := Option.map_eq_some_iff.1 hc
      refine hr c q b hq ?_
      split at hb
      · exact hb
      · exact hb
    contexts := contextsOk_congr rfl rfl rfl
    resp := respOk_congr rfl
    queue := queueOk_congr rfl
    idling := fun _ _ e => e }
  lines := linesKept_congr rfl

theorem keeps_closeLine (n : LineId) (c : CtxId) : Keeps s (closeLine n c s) := by
  unfold closeLine
  dsimp only
  split
  · exact keeps_finish s _ _ _ _
  · next ho =>
    have ho : (s.line n).state = .opened := by simpa using ho
    have closing : Keeps s (s.setLine n { s.line n with state := .closing }) :=
      keeps_settings s (by simp [ho]) (by simp) (by simp [ho]) rfl
    have aborted := ((closing.trans (keeps_withdrawLap _ n)).trans (keeps_abortParked _ n)).trans (keeps_abortWriters _ n)
    refine .trans ?_ (keeps_dropItemWait _)
    refine .trans ?_ (keeps_drainTest _ n)
    refine .trans ?_ (keeps_modCtx _ fun _ => rfl)
    exact aborted.trans (keeps_giveMarks _ n)

/-! ### SET_LINE -/

theorem keeps_freeRun {n : LineId} (ho : (s.line n).state ≠ .free) : Keeps s (freeRun n s) := by
  have changed : Keeps s (s.setLine n { s.line n with policy := .freeRunning }) :=
    keeps_settings s ho (by simpa using ho) (fun e => by simp [e]) rfl
  unfold freeRun
  dsimp only
  split
  · exact changed
  · exact changed.trans (keeps_makeReady _ _)

theorem keeps_backToGuard (c : CtxId) : Keeps s ((leaveReady c s).setPhase c .guardWait) :=
  (keeps_leaveReady s c).trans (keeps_setPhase _ c _)

theorem keeps_guardNow {n : LineId} (ho : (s.line n).state ≠ .free) : Keeps s (guardNow n s) := by
  have changed : Keeps s (s.setLine n { s.line n with policy := .guarded }) :=
    keeps_settings s ho (by simpa using ho) (fun e => by simp [e]) rfl
  unfold guardNow
  dsimp only
  split
  · exact changed
  · split
    · exact changed
    · exact changed.trans (keeps_backToGuard _ _)

theorem keeps_setLineSettings (n : LineId) (c : CtxId) (policy : Policy) (lap : LapSetting) :
    Keeps s (setLineSettings n c policy lap s) := by
  unfold setLineSettings
  dsimp only
  split
  · exact keeps_finish s _ _ _ _
  · next ho =>
    have ho : (s.line n).state = .opened := by simpa using ho
    have set : Keeps s (s.setLine n { s.line n with lap := lap }) :=
      keeps_settings s (by simp [ho]) (by simp [ho]) (by simp [ho]) rfl
    have ho' : ((s.setLine n { s.line n with lap := lap }).line n).state = .opened := by simpa using ho
    generalize s.setLine n { s.line n with lap := lap } = u at set ho'
    split
    · exact set.trans (keeps_finish _ _ _ _ _)
    · split
      · exact (set.trans (keeps_freeRun u (by simp [ho']))).trans (keeps_finish _ _ _ _ _)
      · split
        · refine .trans ?_ (keeps_setPhase _ c _)
          refine .trans set ?_
          exact keeps_settings u (by simp [ho']) (by simp [ho']) (by simp [ho']) rfl
        · exact (set.trans (keeps_guardNow u (by simp [ho']))).trans (keeps_finish _ _ _ _ _)

/-! ### Command rings and response rings -/

theorem keeps_createRing (c : CtxId) (k : RingId) {x : CmdRing} (hx : x.window = []) : Keeps s (createRing c k x s) := by
  unfold createRing
  split
  · next h =>
    exact (keeps_emptyRing s hx fun hc => not_fetched_of_held s ((hc.1 k).2 h.1)).trans (keeps_finish _ _ _ _ _)
  · exact keeps_finish s _ _ _ _

theorem keeps_ringDrainTest (k : RingId) : Keeps s (ringDrainTest k s) := by
  unfold ringDrainTest
  split
  · next h =>
    simp only [ringDrained, Bool.and_eq_true, beq_iff_eq] at h
    have cleared : Keeps s (s.setRing k { CmdRing.disabledRing with notice := (s.ring k).notice }) :=
      keeps_emptyRing s rfl fun _ => not_fetched_of_held s h.2
    dsimp only
    split
    · exact cleared.trans (keeps_finish _ _ _ _ _)
    · exact cleared
  · exact .refl s

theorem keeps_abortRecord (c : CtxId) : Keeps s (abortRecord s c) := by
  unfold abortRecord
  split
  · exact .refl s
  · split
    · exact keeps_finish s _ _ _ _
    · split
      · exact keeps_finish s _ _ _ _
      · exact ((keeps_unpark s _ c).trans (keeps_finish _ _ _ _ _)).trans (keeps_drainTest _ _)
    · exact .refl s

theorem keeps_deleteRing (c : CtxId) (k : RingId) : Keeps s (deleteRing c k s) := by
  unfold deleteRing
  dsimp only
  split
  · exact keeps_finish s _ _ _ _
  · refine .trans ?_ (keeps_ringDrainTest _ k)
    refine .trans ?_ (keeps_foldl (fun t d _ => keeps_abortRecord t d) _)
    refine .trans ?_ (keeps_setPhase _ c _)
    exact keeps_setRing s le_rfl rfl (by simp)

theorem keeps_switchRing (c : CtxId) (k : RingId) {was becomes : RingState} (h : becomes ≠ .disabled) :
    Keeps s (switchRing c k was becomes s) := by
  unfold switchRing
  split
  · refine .trans ?_ (keeps_finish _ _ _ _ _)
    exact keeps_setRing s le_rfl rfl fun e => absurd e h
  · exact keeps_finish s _ _ _ _

theorem keeps_createResponse (c : CtxId) (r : RespId) {x : RespRing} (hx : RespRingOk x) :
    Keeps s (createResponse c r x s) := by
  unfold createResponse
  split
  · exact (keeps_setRespRing s fun _ => hx).trans (keeps_finish _ _ _ _ _)
  · exact keeps_finish s _ _ _ _

theorem keeps_deleteResponse (c : CtxId) (r : RespId) : Keeps s (deleteResponse c r s) := by
  unfold deleteResponse
  split
  · exact keeps_finish s _ _ _ _
  · split
    · exact keeps_finish s _ _ _ _
    · exact (((keeps_discardPosts s r).trans (keeps_setRespRing _ fun _ => by simp [RespRingOk, RespRing.absentRing])).trans
        (keeps_finish _ _ _ _ _)).trans (keeps_dropItemWait _)

/-! ### OPEN_LINE -/

/-- What a line goes through in one step (R6): as `LineGrows`, but that a FREE line may become OPEN. -/
def LineSteps (l x : Line) : Prop :=
  (l.state = .free → x.state ≠ .closing) ∧ (l.state = .closing → x.state ≠ .opened) ∧
    (l.state ≠ .free → x.state ≠ .free →
      l.w ≤ x.w ∧ l.f ≤ x.f ∧ x.channels = l.channels ∧ x.cap = l.cap ∧ x.extents = l.extents)

theorem LineGrows.steps {l x : Line} (h : LineGrows l x) : LineSteps l x :=
  ⟨fun e => by simp [h.1 e], h.2.1, fun _ e => h.2.2 e⟩

/-- Every law is kept, and every line goes through what a step may do to it. -/
structure Steps (s t : State) : Prop where
  laws : KeepsLaws s t
  lines : ∀ n, LineOk (s.line n) → LineOk (t.line n) ∧ LineSteps (s.line n) (t.line n)

variable {s} in
theorem Keeps.steps {t : State} (h : Keeps s t) : Steps s t :=
  ⟨h.laws, fun n hn => ⟨(h.lines n hn).1, (h.lines n hn).2.steps⟩⟩

/-- Extents that are taken, with what is left and the other lines', share no block and lie in the store (R24, R26). -/
theorem TakenFrom.lawful_with {es taken rest os : List Extent} {N : Nat} (h : TakenFrom es taken rest)
    (hes : FreeTableOk es) (hp : (os ++ es).Pairwise Apart)
    (hb : ∀ e ∈ os ++ es, 1 ≤ e.count ∧ e.start + e.count ≤ N) :
    (taken ++ (os ++ rest)).Pairwise Apart ∧ ∀ e ∈ taken ++ (os ++ rest), 1 ≤ e.count ∧ e.start + e.count ≤ N := by
  obtain ⟨hpo, -, hcross⟩ := List.pairwise_append.1 hp
  obtain ⟨hbo, hbe⟩ := List.forall_mem_append.1 hb
  have hperm : (os ++ (taken ++ rest)).Perm (taken ++ (os ++ rest)) := List.perm_append_comm_assoc _ _ _
  have hone : ∀ e ∈ taken ++ rest, 1 ≤ e.count := List.forall_mem_append.2 ⟨h.nonempty, h.lawful.2⟩
  rw [← hperm.pairwise_iff (R := Apart) Apart.symm]
  simp only [← hperm.mem_iff]
  refine ⟨List.pairwise_append.2 ⟨hpo, h.apart, fun o ho => ?_⟩, List.forall_mem_append.2 ⟨hbo, fun x hx => ?_⟩⟩
  · refine (forall_apart_iff (hbo o ho).1 hone).2 fun b hob hb => ?_
    exact (forall_apart_iff (hbo o ho).1 hes.2).1 (hcross o ho) b hob ((h.covers b).1 hb)
  · have h1 := hone x hx
    obtain ⟨e, he, heb⟩ := (h.covers (x.start + x.count - 1)).1 ⟨x, hx, by unfold Extent.Holds; omega⟩
    have := (hbe e he).2
    unfold Extent.Holds at heb
    omega

/-- A FREE line is opened on extents taken from the free extent table (R127, R128). -/
theorem keepsLaws_opened {n : LineId} {x : Line} {taken rest : List Extent} {need : Nat} (hneed : RecordsOk s → 1 ≤ need)
    (hs : (s.line n).state = .free) (ha : allocate need s.store.freeExts = some (taken, rest)) (hx : x.extents = taken)
    (ho : x.state ≠ .free) : KeepsLaws s ((s.setStore { s.store with freeExts := rest }).setLine n x) where
  store := id
  blocks := fun hr h => by
    rw [blocksOk_iff s n] at h
    obtain ⟨h1, h2, h3, h4, h5⟩ := h
    obtain ⟨ht, -⟩ := allocate_takes (hneed hr) h1 ha
    rw [h5 n hs, List.nil_append] at h2 h3
    rw [h5 n hs, blocksOf_nil] at h4
    rw [blocksOk_iff _ n]
    simp only [State.setLine_same, otherExtents_setLine, State.setLine_store, State.setStore_store,
      otherExtents_setStore, hx]
    obtain ⟨hp, hb⟩ := ht.lawful_with h1 h2 h3
    refine ⟨ht.lawful, hp, hb, by have := ht.blocks; omega, fun j hj => ?_⟩
    by_cases hjn : j = n
    · subst hjn; rw [State.setLine_same] at hj; exact absurd hj ho
    · rw [State.setLine_other _ _ _ _ hjn] at hj ⊢; exact h5 j hj
  records := recordsOk_congr rfl
  contexts := contextsOk_congr rfl rfl rfl
  resp := respOk_congr rfl
  queue := queueOk_congr rfl
  idling := fun _ _ e => e

theorem lineOk_opened (channels : Nat) (policy : Policy) (lap : LapSetting) (cap : Nat) (es : List Extent) :
    LineOk (openedLine channels policy lap cap es) := by
  refine ⟨le_rfl, Nat.zero_le _, ?_, ?_, ?_, fun e => ?_⟩ <;> simp_all [openedLine, Line.freeLine]

/-- A line of at least one frame of at least one channel needs a block (R25). -/
theorem blocksNeeded_pos {cap channels : Nat} (h1 : 1 ≤ cap) (h2 : 1 ≤ channels) : 1 ≤ blocksNeeded cap channels := by
  have h := (blocksNeeded_least cap channels).1
  have : 0 < cap * (4 * channels) := by positivity
  omega

theorem steps_openLine (n : LineId) (c : CtxId) {channels cap : Nat} (policy : Policy) (lap : LapSetting)
    (h : RecordsOk s → 1 ≤ cap ∧ 1 ≤ channels) : Steps s (openLine n c channels policy lap cap s) := by
  unfold openLine
  dsimp only
  split
  · exact (keeps_finish s _ _ _ _).steps
  next hs =>
  split
  · exact (keeps_finish s _ _ _ _).steps
  split
  · exact (keeps_finish s _ _ _ _).steps
  next taken rest ha =>
  have hs : (s.line n).state = .free := by simpa using hs
  refine ⟨(keepsLaws_opened s (fun hr => blocksNeeded_pos (h hr).1 (h hr).2) hs ha rfl (by simp [openedLine])).trans
    (keeps_finish _ _ _ _ _).laws, fun j hj => ?_⟩
  rw [finish_line]
  by_cases hjn : j = n
  · subst hjn
    rw [State.setLine_same]
    exact ⟨lineOk_opened _ _ _ _ _, fun _ => by simp [openedLine], fun e => by simp [hs] at e, fun e => absurd hs e⟩
  · rw [State.setLine_other _ _ _ _ hjn]
    exact ⟨hj, (LineGrows.refl _).steps⟩

end Sys2Proof.Machine

/-! PROOF. Every command keeps every law, and with it every step: the invariants, the history of a line, the idle
period. -/

namespace Sys2Proof.Machine

/-- A command's answer changes nothing, or keeps every law before the quiescence rule is applied. -/
def Lawful (s : State) (a : Answer) : Prop := ∀ t, a = .next t → t = s ∨ ∃ u, Steps s u ∧ t = settleIdle u

theorem lawful_notDue (s : State) : Lawful s (notDue s) := fun t h => .inl (by cases h; rfl)

variable {s : State}

theorem Steps.took {u : State} (h : Steps s u) : Lawful s (took u) := fun t ht => .inr ⟨u, h, by cases ht; rfl⟩

theorem Keeps.took {u : State} (h : Keeps s u) : Lawful s (took u) := h.steps.took

variable (s)

/-- The body of the record that starts next is that of its context. -/
theorem nextStart_body {k : RingId} {c : CtxId} {b : Body} (h : nextStart k s = some (c, b)) :
    ∃ o, s.ctx c = some o ∧ o.body = some b := by
  unfold nextStart at h
  split at h
  · cases h
  split at h
  · cases h
  split at h
  · cases h
  split at h
  · cases h; exact ⟨_, by assumption, by assumption⟩
  · cases h

/-! ### The commands -/

theorem lawful_fetchGrant : Lawful s (execFetchGrant s) := by
  unfold execFetchGrant
  split
  · exact lawful_notDue s
  next k level hg =>
  split
  · exact lawful_notDue s
  · exact ((keeps_reserve s _ _ (eligible_of_granted s hg)).trans (keeps_askRead _ _ _ _)).took

theorem lawful_hostReadComplete (n : Nat) (bytes : List Byte) : Lawful s (execHostReadComplete n bytes s) := by
  unfold execHostReadComplete
  split
  · exact lawful_notDue s
  split
  · refine Keeps.took ?_
    split
    · exact (keeps_dropRead s n).trans (keeps_readFailed _ _)
    · exact (keeps_dropRead s n).trans (keeps_readArrived _ _ _)
  · exact lawful_notDue s

theorem lawful_hostReadError (n : Nat) : Lawful s (execHostReadError n s) := by
  unfold execHostReadError
  split
  · exact lawful_notDue s
  · exact ((keeps_dropRead s n).trans (keeps_readFailed _ _)).took

theorem lawful_hostReadTimeout (n : Nat) : Lawful s (execHostReadTimeout n s) := by
  unfold execHostReadTimeout
  split
  · exact lawful_notDue s
  split
  · exact ((keeps_dropRead s n).trans (keeps_readFailed _ _)).took
  · exact lawful_notDue s

/-- A command the link must be up for. -/
theorem lawful_ifUp {u : State} (h : Keeps s u) : Lawful s (if s.host.linkUp then took u else notDue s) := by
  split
  · exact h.took
  · exact lawful_notDue s

theorem lawful_registerWrite (offset : BitVec 8) (width : Width) (v : Word32) :
    Lawful s (execRegisterWrite offset width v s) := by
  unfold execRegisterWrite
  split
  · split
    · exact (keeps_writeWindow s _ v).took
    · exact lawful_notDue s
  · exact lawful_notDue s

theorem keeps_setMask (r : RespId) (b : Bool) : Keeps s (setMask r b s) := by
  unfold setMask
  dsimp only
  split
  · exact keeps_setVectors s _
  · split
    · exact (keeps_setVectors s _).trans (keeps_sendMessage _ r)
    · exact keeps_setVectors s _

theorem keeps_configureMessages (x : MessageSetting) : Keeps s (configureMessages x s) := by
  cases x with
  | address r a => exact keeps_setVectors s _
  | data r v => exact keeps_setVectors s _
  | mask r b => exact keeps_setMask s r b
  | enable b => exact keeps_setHost s id id fun _ _ e => e

theorem keeps_permission (b : Bool) : Keeps s (s.setHost { s.host with permitted := b }) :=
  keeps_setHost s id id fun _ _ e => e

theorem lawful_requestPermissionChange (b : Bool) : Lawful s (execRequestPermissionChange b s) := by
  refine lawful_ifUp s ?_
  split
  · exact (keeps_permission s b).trans (keeps_issueReads _)
  · exact keeps_permission s b

theorem lawful_linkReturn : Lawful s (execLinkReturn s) := by
  have up : Keeps s (s.setHost { s.host with linkUp := true }) := keeps_setHost s id id fun _ _ e => e
  unfold execLinkReturn
  split
  · exact lawful_notDue s
  · refine Keeps.took ?_
    split
    · exact up.trans (keeps_issueReads _)
    · exact up

theorem lawful_hostWriteIssue : Lawful s (execHostWriteIssue s) := by
  unfold execHostWriteIssue
  split
  · exact lawful_notDue s
  next x rest hq =>
  split
  · refine Keeps.took (.trans ?_ (keeps_pumpAll _))
    refine (keeps_setQueue s (letIn rest s.host.waiters).1 (letIn rest s.host.waiters).2 fun h => ?_).trans ?_
    · refine letIn_length _ _ ?_
      simp only [QueueOk, hq, List.length_cons] at h
      omega
    · exact .of_same ⟨rfl, rfl, rfl, rfl, rfl, rfl, rfl, rfl⟩
  · exact lawful_notDue s

theorem lawful_calibrationComplete (b : Bool) : Lawful s (execCalibrationComplete b s) := by
  unfold execCalibrationComplete
  split
  · have ended : Keeps s (if b then calibrated b s else raiseStoreFault (calibrated b s)) := by
      split
      · exact keeps_calibrated s b
      · exact (keeps_calibrated s b).trans (keeps_raiseStoreFault _)
    dsimp only
    refine Keeps.took ?_
    generalize (if b then calibrated b s else raiseStoreFault (calibrated b s)) = u at ended
    split
    · next h => exact ended.trans (keeps_enableTakesEffect u (by simp [h]))
    · exact ended
  · exact lawful_notDue s

theorem lawful_refreshDue : Lawful s (execRefreshDue s) := by
  unfold execRefreshDue
  split
  · refine Keeps.took ?_
    exact keeps_setStore s (fun ⟨h1, _, h3, h4⟩ => ⟨h1, Nat.min_le_left _ _, h3, h4⟩) rfl
  · exact lawful_notDue s

theorem lawful_ordinaryRefresh : Lawful s (execOrdinaryRefresh s) := by
  unfold execOrdinaryRefresh
  split
  · refine Keeps.took ?_
    exact keeps_setStore s (fun ⟨h1, h2, h3, h4⟩ => ⟨h1, (Nat.sub_le _ _).trans h2, h3, h4⟩) rfl
  · exact lawful_notDue s

theorem lawful_forcedRefresh : Lawful s (execForcedRefresh s) := by
  unfold execForcedRefresh
  split
  · refine Keeps.took ?_
    exact keeps_setStore s (fun ⟨h1, h2, h3, _⟩ => ⟨h1, (Nat.sub_le _ _).trans h2, h3, Nat.min_le_left _ _⟩) rfl
  · exact lawful_notDue s

theorem lawful_refreshComplete : Lawful s (execRefreshComplete s) := by
  unfold execRefreshComplete
  split
  · refine Keeps.took ?_
    exact keeps_setStore s id rfl
  · exact lawful_notDue s

theorem lawful_storeAccessStart : Lawful s (execStoreAccessStart s) := by
  have dropped : Keeps s (dropAccess s) := keeps_setStore s id rfl
  unfold execStoreAccessStart
  split
  · exact lawful_notDue s
  split
  · exact lawful_notDue s
  · split
    · exact dropped.took
    · exact (dropped.trans (keeps_refuseAccess _ _)).took
  · split
    · split
      · refine Keeps.took ?_
        exact keeps_setStore s id rfl
      · intro t h; cases h
    · exact lawful_notDue s

theorem lawful_storeAccessComplete (flips : List (Nat × Flip)) : Lawful s (execStoreAccessComplete flips s) := by
  have marked : Keeps s (s.setStore { s.store with marks := flips.foldl addFlip s.store.marks }) :=
    keeps_setStore s id rfl
  unfold execStoreAccessComplete
  split
  · dsimp only
    split
    · exact (marked.trans (keeps_readBurstDone _ _)).took
    · exact (marked.trans (keeps_writeBurstDone _ _ _)).took
  · exact lawful_notDue s

theorem lawful_selfRefreshExitEnd : Lawful s (execSelfRefreshExitEnd s) := by
  have ended : Keeps s (s.setStore { s.store with power := .active, debt := 0, timer := 0 }) :=
    keeps_setStore s (fun ⟨h1, _, h3, h4⟩ => ⟨h1, Nat.zero_le _, h3, h4⟩) rfl
  unfold execSelfRefreshExitEnd
  split
  · dsimp only
    split
    · split
      · split
        · exact (ended.trans (keeps_enterSelfRefresh _)).took
        · exact ((ended.trans (keeps_enterSelfRefresh _)).trans (keeps_compareSnapshot _ _)).took
      · exact ended.took
    · exact ended.took
  · exact lawful_notDue s

theorem lawful_idleDeadlineExpiry : Lawful s (execIdleDeadlineExpiry s) := by
  unfold execIdleDeadlineExpiry
  split
  · next deadline snapshot _ =>
    have quiet := keeps_quieted s (some snapshot)
    split
    · dsimp only
      split
      · split
        · exact quiet.took
        · exact ((quiet.trans (keeps_enterSelfRefresh _)).trans (keeps_compareSnapshot _ _)).took
      · exact (quiet.trans (keeps_compareSnapshot _ _)).took
    · exact lawful_notDue s
  · exact lawful_notDue s

theorem lawful_mixLineVisit (c : CtxId) : Lawful s (execMixLineVisit c s) := by
  unfold execMixLineVisit
  split
  · exact lawful_notDue s
  split
  · split
    · exact (keeps_shapeVisit s _ _ _ _ _).took
    · exact (keeps_placeVisit s _ _ _ _ _ _ _).took
    · exact (keeps_wakeVisit s _ _ _ _ _ _).took
    · split
      · exact (keeps_joinVisit s _ _ _ _).took
      · exact lawful_notDue s
    · split
      · exact (keeps_grantVisit s _ _ _ _ _ _ _).took
      · exact lawful_notDue s
    · split
      · split
        · exact (keeps_endVisit s _ _ _ _ _ _ _).took
        · exact lawful_notDue s
      · exact lawful_notDue s
    · exact lawful_notDue s
    · exact lawful_notDue s
  · exact lawful_notDue s

theorem lawful_mixEndOfMoving (m : MoverId) : Lawful s (execMixEndOfMoving m s) := by
  unfold execMixEndOfMoving
  split
  · exact lawful_notDue s
  split
  · exact lawful_notDue s
  split
  · split
    · exact (keeps_endVisit s _ _ _ _ _ _ _).took
    · exact lawful_notDue s
  · exact lawful_notDue s

theorem lawful_tapEndOfMoving (m : MoverId) : Lawful s (execTapEndOfMoving m s) := by
  unfold execTapEndOfMoving
  split
  · exact lawful_notDue s
  split
  · exact lawful_notDue s
  split
  · split
    · exact (((keeps_setMover s m none).trans (keeps_removePin _ _ _)).trans (keeps_finish _ _ _ _ _)).took
    · exact lawful_notDue s
  · exact lawful_notDue s

theorem lawful_parkDeadlineExpiry (c : CtxId) : Lawful s (execParkDeadlineExpiry c s) := by
  unfold execParkDeadlineExpiry
  split
  · exact lawful_notDue s
  split
  · exact lawful_notDue s
  split
  · exact (((keeps_unpark s _ c).trans (keeps_finish _ _ _ _ _)).trans (keeps_drainTest _ _)).took
  · exact lawful_notDue s

theorem lawful_commit (m : MoverId) : Lawful s (execCommit m s) := by
  unfold execCommit
  split
  · exact lawful_notDue s
  split
  · exact ((keeps_setMover s m none).trans (keeps_commitAt _ _ _ _)).took
  · exact lawful_notDue s
  · split
    · exact lawful_notDue s
    · split
      · exact ((keeps_setMover s m none).trans (keeps_commitAt _ _ _ _)).took
      · exact lawful_notDue s

theorem lawful_writerAbandoned (m : MoverId) : Lawful s (execWriterAbandoned m s) := by
  unfold execWriterAbandoned
  split
  · exact lawful_notDue s
  split
  · exact lawful_notDue s
  · exact ((keeps_setMover s m none).trans (keeps_abandonAt _ _ _ _ _ _)).took
  · exact lawful_notDue s
  · split
    · exact lawful_notDue s
    · split
      · exact ((keeps_setMover s m none).trans (keeps_abandonAt _ _ _ _ _ _)).took
      · exact lawful_notDue s

theorem lawful_moverGrant : Lawful s (execMoverGrant s) := by
  unfold execMoverGrant
  split
  · split
    · exact lawful_notDue s
    split
    · exact lawful_notDue s
    · exact ((keeps_leaveReady s _).trans (keeps_takeGrant _ _ _ _ _)).took
  · exact lawful_notDue s

theorem lawful_reportWrite (m : MoverId) : Lawful s (execReportWrite m s) := by
  unfold execReportWrite
  split
  · exact lawful_notDue s
  split
  · dsimp only
    split
    · next h =>
      simp only [hasPlace, Bool.and_eq_true, decide_eq_true_eq] at h
      exact ((((keeps_takePlace s _ h.1).trans (keeps_setMover _ m none)).trans (keeps_finish _ _ _ _ _)).trans
        (keeps_pumpAll _)).took
    · exact (keeps_awaitPlace s _).took
  · exact lawful_notDue s

theorem lawful_itemWrite : Lawful s (execItemWrite s) := by
  unfold execItemWrite
  split
  · exact lawful_notDue s
  next x hx =>
  split
  · next hp => exact ((keeps_writeItem s hx hp).trans (keeps_pumpAll _)).took
  · exact (keeps_awaitPlace s _).took

theorem lawful_moderationTimeExpiry (r : RespId) : Lawful s (execModerationTimeExpiry r s) := by
  unfold execModerationTimeExpiry
  dsimp only
  split
  · exact lawful_notDue s
  · split
    · exact (keeps_sendInterrupt s r).took
    · exact lawful_notDue s

theorem lawful_lineDrainComplete (n : LineId) : Lawful s (execLineDrainComplete n s) := by
  unfold execLineDrainComplete
  split
  · exact (keeps_drainTest s n).took
  · exact lawful_notDue s

theorem lawful_setLineHeldComplete (n : LineId) : Lawful s (execSetLineHeldComplete n s) := by
  unfold execSetLineHeldComplete
  split
  · dsimp only
    refine Keeps.took ?_
    split
    · exact keeps_applyHeld s n
    · split
      · exact keeps_applyHeld s n
      · exact (keeps_applyHeld s n).trans (keeps_backToGuard _ _)
  · exact lawful_notDue s

theorem lawful_ringDrainComplete (k : RingId) : Lawful s (execRingDrainComplete k s) := by
  unfold execRingDrainComplete
  split
  · exact (keeps_ringDrainTest s k).took
  · exact lawful_notDue s

/-! ### The start of a record -/

theorem lawful_openLine : Lawful s (execOpenLine s) := by
  unfold execOpenLine
  split
  · next n channels policy lap cap h =>
    obtain ⟨o, ho, hb⟩ := nextStart_body s h
    refine (steps_openLine s _ _ policy lap fun hr => ?_).took
    have hwf := hr _ o _ ho hb
    simp only [wfBody, Bool.and_eq_true, decide_eq_true_eq] at hwf
    obtain ⟨⟨⟨⟨hch, -⟩, -⟩, hcap⟩, -⟩ := hwf
    exact ⟨hcap, hch⟩
  · exact lawful_notDue s

theorem lawful_createResponse : Lawful s (execCreateResponse s) := by
  unfold execCreateResponse
  split
  · next logSize _ _ _ _ _ =>
    refine (keeps_createResponse s _ _ ?_).took
    have : 0 < 2 ^ logSize := by positivity
    simp [RespRingOk, newRespRing, RespRing.absentRing]
  · exact lawful_notDue s

/-- A command that starts a record, if the record it names starts next: it keeps the laws, or is not due. -/
theorem lawful_start :
    (∀ k, Lawful s (execDeposit k s)) ∧ (∀ k, Lawful s (execSkip k s)) ∧ (∀ k, Lawful s (execTap k s)) ∧
      (∀ k, Lawful s (execMix k s)) ∧ Lawful s (execCloseLine s) ∧ Lawful s (execSetLine s) ∧
      Lawful s (execQueryLine s) ∧ Lawful s (execQueryStore s) ∧ Lawful s (execCreateRing s) ∧
      Lawful s (execDeleteRing s) ∧ Lawful s (execPauseRing s) ∧ Lawful s (execResumeRing s) ∧
      Lawful s (execDeleteResponse s) := by
  refine ⟨fun k => ?_, fun k => ?_, fun k => ?_, fun k => ?_, ?_, ?_, ?_, ?_, ?_, ?_, ?_, ?_, ?_⟩
  · unfold execDeposit; split; exacts [(keeps_startWriter s _ _ _).took, lawful_notDue s]
  · unfold execSkip; split; exacts [(keeps_startWriter s _ _ _).took, lawful_notDue s]
  · unfold execTap; split; exacts [(keeps_startTap s _ _ _ _ _ _ _).took, lawful_notDue s]
  · unfold execMix; split; exacts [(keeps_startMix s _ _ _ _).took, lawful_notDue s]
  · unfold execCloseLine; split; exacts [(keeps_closeLine s _ _).took, lawful_notDue s]
  · unfold execSetLine; split; exacts [(keeps_setLineSettings s _ _ _ _).took, lawful_notDue s]
  · unfold execQueryLine; split; exacts [(keeps_makeReady s _).took, lawful_notDue s]
  · unfold execQueryStore; split; exacts [(keeps_makeReady s _).took, lawful_notDue s]
  · unfold execCreateRing; split; exacts [(keeps_createRing s _ _ rfl).took, lawful_notDue s]
  · unfold execDeleteRing; split; exacts [(keeps_deleteRing s _ _).took, lawful_notDue s]
  · unfold execPauseRing; split; exacts [(keeps_switchRing s _ _ (by simp)).took, lawful_notDue s]
  · unfold execResumeRing; split; exacts [(keeps_switchRing s _ _ (by simp)).took, lawful_notDue s]
  · unfold execDeleteResponse; split; exacts [(keeps_deleteResponse s _ _).took, lawful_notDue s]

/-! ### Every command, and every step -/

theorem lawful_exec (i : Instr) : Lawful s (exec i s) := by
  obtain ⟨deposit, skip, tap, mix, closeLine, setLine, queryLine, queryStore, createRing, deleteRing, pauseRing,
    resumeRing, deleteResponse⟩ := lawful_start s
  cases i with
  | powerOnReset => exact (keeps_powerReset s _).took
  | pinReset => exact (keeps_powerReset s _).took
  | linkReset lost => exact (keeps_linkReset s lost).took
  | enableSet upper => exact lawful_ifUp s (keeps_writeEnable s _)
  | enableClear upper => exact lawful_ifUp s (keeps_writeEnable s _)
  | controlWrite v => exact lawful_ifUp s (keeps_writeEnable s _)
  | configRegisterWrite reg v => exact lawful_ifUp s (keeps_writeConfig s reg v)
  | idleDelayWrite v => exact lawful_ifUp s (keeps_writeIdleDelay s v)
  | registerWrite offset width v => exact lawful_registerWrite s offset width v
  | postWrite k v => exact lawful_ifUp s (keeps_writePost s k _)
  | releaseWrite r v => exact lawful_ifUp s (keeps_release s r _)
  | messageConfiguration x => exact lawful_ifUp s (keeps_configureMessages s x)
  | requestPermissionChange granted => exact lawful_requestPermissionChange s granted
  | writeUndeliverableReport => exact lawful_notDue s
  | calibrationComplete b => exact lawful_calibrationComplete s b
  | refreshDue => exact lawful_refreshDue s
  | ordinaryRefresh => exact lawful_ordinaryRefresh s
  | forcedRefresh => exact lawful_forcedRefresh s
  | refreshComplete => exact lawful_refreshComplete s
  | storeAccessStart => exact lawful_storeAccessStart s
  | storeAccessComplete flips => exact lawful_storeAccessComplete s flips
  | selfRefreshExitEnd => exact lawful_selfRefreshExitEnd s
  | fetchGrant => exact lawful_fetchGrant s
  | hostReadComplete n bytes => exact lawful_hostReadComplete s n bytes
  | hostReadError n => exact lawful_hostReadError s n
  | hostReadTimeout n => exact lawful_hostReadTimeout s n
  | deposit k => exact deposit k
  | skip k => exact skip k
  | tap k => exact tap k
  | mix k => exact mix k
  | mixLineVisit c => exact lawful_mixLineVisit s c
  | openLine => exact lawful_openLine s
  | closeLine => exact closeLine
  | lineDrainComplete n => exact lawful_lineDrainComplete s n
  | setLine => exact setLine
  | setLineHeldComplete n => exact lawful_setLineHeldComplete s n
  | queryLine => exact queryLine
  | queryStore => exact queryStore
  | reportWrite m => exact lawful_reportWrite s m
  | createRing => exact createRing
  | deleteRing => exact deleteRing
  | ringDrainComplete k => exact lawful_ringDrainComplete s k
  | pauseRing => exact pauseRing
  | resumeRing => exact resumeRing
  | createResponse => exact lawful_createResponse s
  | deleteResponse => exact deleteResponse
  | moverGrant => exact lawful_moverGrant s
  | commit m => exact lawful_commit s m
  | writerAbandoned m => exact lawful_writerAbandoned s m
  | tapEndOfMoving m => exact lawful_tapEndOfMoving s m
  | mixEndOfMoving m => exact lawful_mixEndOfMoving s m
  | parkDeadlineExpiry c => exact lawful_parkDeadlineExpiry s c
  | itemWrite => exact lawful_itemWrite s
  | moderationTimeExpiry r => exact lawful_moderationTimeExpiry s r
  | hostWriteIssue => exact lawful_hostWriteIssue s
  | idleDeadlineExpiry => exact lawful_idleDeadlineExpiry s
  | linkReturn => exact lawful_linkReturn s

/-- Every law is kept from one state to the next, and every line goes through what a step may do to it. -/
structure Obeys (s t : State) : Prop where
  lines : ∀ n, LineOk (s.line n) → LineOk (t.line n) ∧ LineSteps (s.line n) (t.line n)
  store : StoreOk s → StoreOk t
  blocks : RecordsOk s → BlocksOk s → BlocksOk t
  records : RecordsOk s → RecordsOk t
  contexts : ContextsOk s → ContextsOk t
  resp : RespOk s → RespOk t
  queue : QueueOk s → QueueOk t

variable {s} in
theorem Steps.obeys {t : State} (h : Steps s t) : Obeys s t :=
  ⟨h.lines, h.laws.store, h.laws.blocks, h.laws.records, h.laws.contexts, h.laws.resp, h.laws.queue⟩

variable {s} in
/-- The quiescence rule touches nothing a law speaks of (R175). -/
theorem Steps.obeys_settleIdle {u : State} (h : Steps s u) : Obeys s (settleIdle u) where
  lines n hn := by rw [settleIdle_line]; exact h.lines n hn
  store hs := storeOk_congr (by simp) (h.laws.store hs)
  blocks hr hb := blocksOk_congr (by simp) (by simp) (h.laws.blocks hr hb)
  records hr := recordsOk_congr (by simp) (h.laws.records hr)
  contexts hc := contextsOk_congr (by simp) (by simp) (by rw [settleIdle_host]) (h.laws.contexts hc)
  resp hr := respOk_congr (by simp) (h.laws.resp hr)
  queue hq := queueOk_congr (by rw [settleIdle_host]) (h.laws.queue hq)

theorem keeps_tick : Keeps s (tick s) := by
  have timed : Keeps s (s.setStore (if timerRuns s then { s.store with timer := s.store.timer + 10 } else s.store)) := by
    split
    · exact keeps_setStore s id rfl
    · exact keeps_setStore s id rfl
  exact timed.trans (.of_same ⟨rfl, rfl, rfl, rfl, rfl, rfl, rfl, rfl⟩)

/-- A step lets time pass, takes a command that changes nothing, or takes one that keeps every law before the quiescence
rule is applied. -/
theorem step_cases {t : State} (h : step s = .next t) :
    t = tick s ∨ (∃ rest, t = { s with pending := rest }) ∨
      ∃ rest u, Steps { s with pending := rest } u ∧ t = settleIdle u := by
  unfold step at h
  split at h
  · cases h; exact .inl rfl
  · next rest _ =>
    rcases lawful_exec _ _ t h with ht | ⟨u, hu, ht⟩
    · exact .inr (.inl ⟨rest, ht⟩)
    · exact .inr (.inr ⟨rest, u, hu, ht⟩)

variable {s}

theorem obeys_step {t : State} (h : step s = .next t) : Obeys s t := by
  rcases step_cases s h with rfl | ⟨rest, rfl⟩ | ⟨rest, u, hu, rfl⟩
  · exact (keeps_tick s).steps.obeys
  · have same : SameLawful s { s with pending := rest } := ⟨rfl, rfl, rfl, rfl, rfl, rfl, rfl, rfl⟩
    exact (Keeps.of_same same).steps.obeys
  · have h := hu.obeys_settleIdle
    exact ⟨h.lines, h.store, h.blocks, h.records, h.contexts, h.resp, h.queue⟩

/-- Settles O3: every command keeps the laws of the lines, by the updates it is made of. -/
theorem linesInvariant : Obligations.LinesInvariant := fun _ _ hs h n => ((obeys_step h).lines n (hs n)).1

/-- Settles O4: every command keeps the laws of the store, the blocks and the records. -/
theorem storeInvariant : Obligations.StoreInvariant :=
  ⟨fun _ _ hs h => (obeys_step h).store hs, fun _ _ hb hr h => ⟨(obeys_step h).blocks hr hb, (obeys_step h).records hr⟩⟩

/-- Settles O5: every command keeps the law of the contexts. -/
theorem windowsInvariant : Obligations.WindowsInvariant := fun _ _ hs h => (obeys_step h).contexts hs

/-- Settles O6: every command keeps the laws of the response rings and of the host write queue. -/
theorem responsesInvariant : Obligations.ResponsesInvariant := fun _ _ hr hq h =>
  ⟨(obeys_step h).resp hr, (obeys_step h).queue hq⟩

/-- Settles O60: a step takes a lawful line its way; only OPEN_LINE opens a FREE one. -/
theorem lineHistory : Obligations.LineHistory := fun _ _ n hn h => ((obeys_step h).lines n hn).2

/-- Settles O2: the reset state has FREE lines, a whole store, no contexts and empty rings. -/
theorem resetMeetsInvariants : Obligations.ResetMeetsInvariants := by
  have hline : ∀ n, State.reset.line n = Line.freeLine := fun n => by simp [State.reset, State.line]
  exact ⟨fun n => by rw [hline]; exact lineOk_freeLine, storeOk_reset rfl, blocksOk_reset rfl rfl, recordsOk_reset rfl,
    contextsOk_reset rfl, respOk_reset rfl, by simp [QueueOk, State.reset, HostPort.reset]⟩

/-! ### The idle period -/

/-- The quiescence rule, state by state (R175). -/
theorem settleIdle_quiesce (s : State) : (settleIdle s).host.quiesce =
    match s.host.quiesce with
    | .awake =>
      if idle s = true ∧ 0 < s.host.idleDelay.toNat then
        .idling (s.now + s.host.idleDelay.toNat) (s.fetcher.rings.rows.map CmdRing.post)
      else .awake
    | .idling d p => if idle s = true then .idling d p else .awake
    | .quiet p => .quiet p := by
  have hdelay : s.host.idleDelay ≠ 0 ↔ 0 < s.host.idleDelay.toNat := by bv_omega
  cases h : s.host.quiesce with
  | awake => simp only [settleIdle, h, hdelay]; split <;> simp [h, postIndices]
  | idling d p => simp only [settleIdle, h]; split <;> simp [h]
  | quiet p => simp [settleIdle, h]

/-- Two states that differ in the quiescence state only are one. -/
theorem settleIdle_eq_iff (s : State) : settleIdle s = s ↔ (settleIdle s).host.quiesce = s.host.quiesce := by
  refine ⟨fun h => by rw [h], fun h => ?_⟩
  have hs : settleIdle s = s.setHost (settleIdle s).host := by
    unfold settleIdle
    repeat' split
    all_goals rfl
  rw [hs, settleIdle_host, h]
  rfl

theorem idle_iff (s : State) : idle s = true ↔
    s.host.enable = .on ∧ (∀ c, s.ctx c = none) ∧ s.fetcher.fetch = none ∧ s.resp.posts = [] ∧
      ∀ k, (s.ring k).state = .running → (s.ring k).post = (s.ring k).take := by
  have hrings : (s.fetcher.rings.all fun x => decide (x.state ≠ .running) || decide (x.post = x.take)) = true ↔
      ∀ k, (s.ring k).state = .running → (s.ring k).post = (s.ring k).take := by
    rw [Table.all_iff]
    refine forall_congr' fun k => ?_
    simp only [State.ring, Bool.or_eq_true, decide_eq_true_eq]
    tauto
  have hctxs : s.sched.ctxs.all Option.isNone = true ↔ ∀ c, s.ctx c = none := by
    rw [Table.all_iff]
    exact forall_congr' fun c => by simp [State.ctx]
  simp only [idle, Bool.and_eq_true, decide_eq_true_eq, hrings, hctxs, Option.isNone_iff_eq_none, List.isEmpty_iff,
    and_assoc]

/-- The quiescence rule changes the quiescence state only (R175). -/
theorem onlyIn_nil_settleIdle (s : State) : OnlyIn [] s (settleIdle s) := onlyIn_settleIdle s (onlyIn_refl s [])

/-- What a settled quiescence state says of the part (R175). -/
theorem settled_iff (s : State) : settleIdle s = s ↔
    (s.host.quiesce = .awake → idle s = true → s.host.idleDelay = 0) ∧
      ∀ d p, s.host.quiesce = .idling d p → idle s = true := by
  have hdelay : 0 < s.host.idleDelay.toNat ↔ s.host.idleDelay ≠ 0 := by bv_omega
  rw [settleIdle_eq_iff, settleIdle_quiesce]
  cases h : s.host.quiesce with
  | awake =>
    by_cases hi : idle s = true <;> by_cases hd : s.host.idleDelay = 0 <;> simp [hdelay, hi, hd]
  | idling d p => by_cases hi : idle s = true <;> simp [hi]
  | quiet p => simp

/-- An idle period stands as it stood before the step, or it began within it (R175). -/
theorem idling_step {t : State} (hs : settleIdle s = s) (h : step s = .next t) :
    settleIdle t = t ∧ ∀ d p, t.host.quiesce = .idling d p → s.host.quiesce = .idling d p ∨
      d = t.now + t.host.idleDelay.toNat ∧ p = t.fetcher.rings.rows.map CmdRing.post := by
  rcases step_cases s h with rfl | ⟨rest, rfl⟩ | ⟨rest, u, hu, rfl⟩
  · exact ⟨(settled_iff _).2 ((settled_iff s).1 hs), fun d p e => .inl e⟩
  · exact ⟨(settled_iff _).2 ((settled_iff s).1 hs), fun d p e => .inl e⟩
  · refine ⟨settleIdle_settled u, fun d p e => ?_⟩
    have hidling : ∀ d p, u.host.quiesce = .idling d p → s.host.quiesce = .idling d p := hu.laws.idling
    have hdelay : (settleIdle u).host.idleDelay = u.host.idleDelay := by rw [settleIdle_host]
    obtain ⟨-, hnow, -, hfetch, -⟩ := settleIdle_frame u
    rw [hnow, hfetch, hdelay]
    rw [settleIdle_quiesce] at e
    cases hq : u.host.quiesce with
    | awake =>
      simp only [hq] at e
      split at e
      · cases e; exact .inr ⟨rfl, rfl⟩
      · cases e
    | idling d' p' =>
      simp only [hq] at e
      split at e
      · cases e; exact .inl (hidling d p hq)
      · cases e
    | quiet p' => simp [hq] at e

theorem settleIdle_reset : settleIdle State.reset = State.reset :=
  (settled_iff _).2 ⟨fun _ _ => rfl, fun _ _ e => by cases e⟩

/-- Settles O26: the rule by cases of the quiescence state; a step either applies it last or leaves the state it was
settled in. -/
theorem idlePeriod : Obligations.IdlePeriod := by
  refine ⟨fun s => ⟨onlyIn_nil_settleIdle s, idle_iff s, settleIdle_quiesce s⟩, settleIdle_reset, fun s t hs h => ?_⟩
  obtain ⟨ht, hidling⟩ := idling_step hs h
  obtain ⟨hawake, hidle⟩ := (settled_iff t).1 ht
  exact ⟨ht, hawake, fun d p e => ⟨hidle d p e, hidling d p e⟩⟩

end Sys2Proof.Machine

/-! PROOF. The mapping of positions to store addresses, and the bursts of a run (R30, R31). -/

namespace Sys2Proof.Machine

/-! ### The logical bytes of a line -/

/-- The logical byte is the byte of the run's own place, counted round the line's capacity. -/
theorem logicalByte_eq_mod {l : Line} (hch : 0 < l.channels) (start j : Nat) :
    logicalByte l start j = (start * frameSize l + j) % (l.cap * frameSize l) := by
  have hfs : 0 < frameSize l := by unfold frameSize; omega
  unfold logicalByte
  have hsplit : start * frameSize l + j = (start + j / frameSize l) * frameSize l + j % frameSize l := by
    have := Nat.div_add_mod j (frameSize l)
    rw [Nat.add_mul, Nat.add_assoc, Nat.mul_comm (j / _)]
    omega
  generalize j / frameSize l = a at *
  have hr : j % frameSize l < frameSize l := Nat.mod_lt _ hfs
  generalize j % frameSize l = r at *
  rw [hsplit, Nat.mul_comm (start + a), Nat.mul_comm l.cap, Nat.mod_mul, Nat.mul_add_div hfs, Nat.div_eq_of_lt hr,
    Nat.add_zero, Nat.mul_add_mod, Nat.mod_eq_of_lt hr, Nat.mul_comm, Nat.add_comm]

theorem logicalByte_of_lt {l : Line} {q j : Nat} (hj : j < frameSize l) :
    logicalByte l q j = (q % l.cap) * frameSize l + j := by
  rw [logicalByte, Nat.div_eq_of_lt hj, Nat.mod_eq_of_lt hj, Nat.add_zero]

theorem logicalByte_lt {l : Line} (hcap : 0 < l.cap) (hch : 0 < l.channels) (start j : Nat) :
    logicalByte l start j < l.cap * frameSize l := by
  rw [logicalByte_eq_mod hch]
  exact Nat.mod_lt _ (Nat.mul_pos hcap (by unfold frameSize; omega))

/-- A run goes on byte for byte until it wraps to frame index 0. -/
theorem logicalByte_add {l : Line} (hch : 0 < l.channels) {start j i : Nat}
    (h : logicalByte l start j + i < l.cap * frameSize l) : logicalByte l start (j + i) = logicalByte l start j + i := by
  rw [logicalByte_eq_mod hch] at h
  rw [logicalByte_eq_mod hch, logicalByte_eq_mod hch start j, ← Nat.add_assoc, Nat.add_mod, Nat.mod_eq_of_lt (a := i) (by omega), Nat.mod_eq_of_lt h]

/-- Where the run wraps it stands at frame index 0. -/
theorem logicalByte_wrap {l : Line} (hch : 0 < l.channels) {start j i : Nat}
    (h : logicalByte l start j + i = l.cap * frameSize l) : logicalByte l start (j + i) = 0 := by
  rw [logicalByte_eq_mod hch] at *
  rw [← Nat.add_assoc, ← Nat.mod_add_mod, h, Nat.mod_self]

/-! ### The extents laid end to end -/

/-- The extent a logical byte stands in: what lies before it, and the byte's place within it. -/
theorem storeAddr_of_mem {es : List Extent} {i L : Nat} {e : Extent} (he : es[i]? = some e)
    (hlo : 4096 * blocksOf (es.take i) ≤ L) (hhi : L < 4096 * blocksOf (es.take (i + 1))) :
    storeAddr es L = 4096 * e.start + (L - 4096 * blocksOf (es.take i)) := by
  induction es generalizing i L with
  | nil => simp at he
  | cons d ds ih =>
    cases i with
    | zero =>
      obtain rfl : d = e := by simpa using he
      simp only [List.take_succ_cons, List.take_zero, blocksOf_cons, blocksOf_nil] at hhi ⊢
      rw [storeAddr, if_pos (by simpa [Config.blockBytes] using hhi)]
      simp [Config.blockBytes]
    | succ i =>
      simp only [List.take_succ_cons, blocksOf_cons, List.getElem?_cons_succ] at he hlo hhi ⊢
      have hstep := ih he (L := L - 4096 * d.count) (by omega) (by omega)
      rw [storeAddr, if_neg (by simp only [Config.blockBytes]; omega), show Config.blockBytes = 4096 from rfl, hstep]
      omega

/-- Every logical byte the extents hold stands in one of them. -/
theorem exists_extent {es : List Extent} {L : Nat} (h : L < 4096 * blocksOf es) :
    ∃ i e, es[i]? = some e ∧ 4096 * blocksOf (es.take i) ≤ L ∧ L < 4096 * blocksOf (es.take (i + 1)) := by
  induction es generalizing L with
  | nil => simp at h
  | cons d ds ih =>
    by_cases hd : L < 4096 * d.count
    · exact ⟨0, d, rfl, by simp, by simpa using hd⟩
    · obtain ⟨i, e, he, hlo, hhi⟩ := ih (L := L - 4096 * d.count) (by rw [blocksOf_cons] at h; omega)
      refine ⟨i + 1, e, by simpa using he, ?_, ?_⟩
      · simp only [List.take_succ_cons, blocksOf_cons]; omega
      · simp only [List.take_succ_cons, blocksOf_cons] at hhi ⊢; omega

theorem blocksOf_take_succ {es : List Extent} {i : Nat} {e : Extent} (he : es[i]? = some e) :
    blocksOf (es.take (i + 1)) = blocksOf (es.take i) + e.count := by
  rw [List.take_add_one, he, blocksOf_append]
  simp

/-- Bytes of one extent stand together. -/
theorem storeAddr_in {es : List Extent} {L : Nat} (h : L < 4096 * blocksOf es) : ∃ i e base, es[i]? = some e ∧
    base = blocksOf (es.take i) ∧ 4096 * base ≤ L ∧ L < 4096 * (base + e.count) ∧
    ∀ M, 4096 * base ≤ M → M < 4096 * (base + e.count) → storeAddr es M = 4096 * e.start + (M - 4096 * base) := by
  obtain ⟨i, e, he, hlo, hhi⟩ := exists_extent h
  refine ⟨i, e, _, he, rfl, hlo, by rwa [← blocksOf_take_succ he], fun M hM1 hM2 => storeAddr_of_mem he hM1 ?_⟩
  rwa [blocksOf_take_succ he]

/-- The bytes of a block stay together: only whole blocks are taken. -/
theorem storeAddr_add {es : List Extent} {L i : Nat} (h : L < 4096 * blocksOf es) (hi : storeAddr es L % 4096 + i < 4096) :
    storeAddr es (L + i) = storeAddr es L + i := by
  obtain ⟨_, e, base, -, -, hlo, hhi, hall⟩ := storeAddr_in h
  rw [hall L hlo hhi] at hi ⊢
  rw [hall (L + i) (by omega) (by omega)]
  omega

/-- Distinct logical bytes stand at distinct addresses, where the extents share no block. -/
theorem storeAddr_inj {es : List Extent} {L M : Nat} (hL : L < 4096 * blocksOf es) (hM : M < 4096 * blocksOf es)
    (hp : es.Pairwise Apart) (h : storeAddr es L = storeAddr es M) : L = M := by
  obtain ⟨i, e, base, he, hbase, hlo, hhi, hall⟩ := storeAddr_in hL
  obtain ⟨j, f, base', hf, hbase', hlo', hhi', hall'⟩ := storeAddr_in hM
  rw [hall L hlo hhi, hall' M hlo' hhi'] at h
  have hlt : ∀ {a b : Nat} {c d : Extent}, a < b → es[a]? = some c → es[b]? = some d → Apart c d := by
    intro a b c d hab hc hd
    obtain ⟨ha, rfl⟩ := List.getElem?_eq_some_iff.1 hc
    obtain ⟨hb, rfl⟩ := List.getElem?_eq_some_iff.1 hd
    exact List.pairwise_iff_getElem.1 hp a b ha hb hab
  rcases lt_trichotomy i j with hij | rfl | hij
  · have := hlt hij he hf; unfold Apart at this; omega
  · obtain rfl : e = f := by rw [he] at hf; exact Option.some.inj hf
    omega
  · have := hlt hij hf he; unfold Apart at this; omega

/-! ### The bursts of a run -/

theorem wordsOf_length {addr len : Nat} (h : addr % 32 + len ≤ 512) : (wordsOf addr len).length ≤ 16 := by
  unfold wordsOf
  split
  · simp
  · simp only [List.length_range', Config.wordBytes]; omega

/-- What the length of a burst is the least of. -/
theorem burstAt_len {l : Line} {start total j addr len : Nat} (h : burstAt l start total j = (addr, len)) :
    addr = storeAddr l.extents (logicalByte l start j) ∧
      len = min (min (total - j) (l.cap * frameSize l - logicalByte l start j)) (min (4096 - addr % 4096) (512 - addr % 32)) := by
  unfold burstAt at h
  dsimp only at h
  obtain ⟨rfl, rfl⟩ := Prod.mk.inj h
  exact ⟨rfl, rfl⟩

/-- Settles O57: the logical bytes run round the capacity, the extents keep each block whole, and a burst ends at the
first of its four bounds. -/
theorem addressMapping : Obligations.AddressMapping := by
  intro l hcap hch hroom
  have hfs : frameSize l = 4 * l.channels := rfl
  have hheld : ∀ q j, logicalByte l q j < 4096 * blocksOf l.extents := fun q j =>
    (logicalByte_lt hcap hch q j).trans_le (by rw [hfs]; exact hroom)
  refine ⟨fun q j hj => by rw [logicalByte_of_lt (by rw [hfs]; exact hj), hfs], fun q k j hj => ?_,
    fun i L e => storeAddr_of_mem, fun q j => ?_, fun q c b hc hb => ?_, fun hp q q' i j hq hi hj h => ?_,
    fun start total j addr len hj hburst => ?_⟩
  · rw [logicalByte_eq_mod hch, logicalByte_eq_mod hch, hfs]
    congr 1
    ring
  · rw [logicalByte_eq_mod hch, logicalByte_eq_mod hch, Nat.add_mul, Nat.add_right_comm, Nat.add_mod_right]
  · have hb4 : storeAddr l.extents (logicalByte l q (4 * c)) % 4096 + b < 4096 := by
      obtain ⟨_, e, base, -, -, hlo, hhi, hall⟩ := storeAddr_in (hheld q (4 * c))
      rw [hall _ hlo hhi]
      have : logicalByte l q (4 * c) % 4 = 0 := by
        rw [logicalByte_of_lt (by rw [hfs]; omega), hfs, ← Nat.mul_assoc, Nat.mul_comm _ 4, Nat.mul_assoc]
        omega
      omega
    have hadd : logicalByte l q (4 * c + b) = logicalByte l q (4 * c) + b := by
      rw [logicalByte_of_lt (by rw [hfs]; omega), logicalByte_of_lt (by rw [hfs]; omega)]; omega
    rw [hadd, storeAddr_add (hheld q _) hb4]
    exact ⟨rfl, by omega⟩
  · have hL := storeAddr_inj (hheld q i) (hheld q' j) hp h
    rw [logicalByte_of_lt (by rw [hfs]; exact hi), logicalByte_of_lt (by rw [hfs]; exact hj)] at hL
    have := congrArg (· / frameSize l) hL
    have hpos : 0 < frameSize l := by rw [hfs]; omega
    simp only [Nat.mul_comm _ (frameSize l), Nat.mul_add_div hpos, Nat.div_eq_of_lt (hfs ▸ hi : i < frameSize l),
      Nat.div_eq_of_lt (hfs ▸ hj : j < frameSize l), Nat.add_zero] at this
    exact hq this
  · obtain ⟨haddr, hlen⟩ := burstAt_len hburst
    have hwrap := logicalByte_lt hcap hch start j
    have hroom' : l.cap * frameSize l ≤ 4096 * blocksOf l.extents := by rw [hfs]; exact hroom
    have hmap : ∀ i, i < len → storeAddr l.extents (logicalByte l start (j + i)) = addr + i := by
      intro i hi
      rw [logicalByte_add hch (by omega), storeAddr_add (hheld start j) (by rw [← haddr]; omega), ← haddr]
    refine ⟨by omega, by omega, by omega, wordsOf_length (by omega), by omega, hmap, ?_⟩
    have hcase : j + len = total ∨ len = l.cap * frameSize l - logicalByte l start j ∨ len = 4096 - addr % 4096 ∨
        len = 512 - addr % 32 := by omega
    rcases hcase with h | h | h | h
    · exact .inl h
    · exact .inr (.inr (.inr (logicalByte_wrap hch (by omega))))
    · exact .inr (.inl (by omega))
    · exact .inr (.inr (.inl (by omega)))

end Sys2Proof.Machine

/-! PROOF. The layouts of items and reports, and the arithmetic of the Mix Unit (R70 to R72, R121). -/

namespace Sys2Proof

/-- A field that is a whole value. -/
@[simp] theorem field_leBytes_self (n v : Nat) : field (leBytes n v) 0 n = v % 256 ^ n := by
  simpa using field_leBytes_here n v []

end Sys2Proof

namespace Sys2Proof.Machine

/-! ### Items and notices (R70, R71) -/

theorem statusCode_lt (st : Status) : statusCode st < 256 := by cases st <;> decide

theorem fields_completion (phase : Bool) (tag : BitVec 16) {ring take : Nat} {r : Settled} {bs : List Byte} (hring : ring < 16)
    (htake : take < 4096) (hpos : r.pos < 2 ^ 48) (haux : r.aux < 2 ^ 32) (h : bs = completionBytes phase tag ring take r) :
    bs.length = 16 ∧ field bs 0 2 = tag.toNat ∧ field bs 2 1 = statusCode r.status ∧
      field bs 3 1 = (if phase = true then 128 else 0) + ring ∧ field bs 4 2 = take ∧ field bs 6 6 = r.pos ∧
      field bs 12 4 = r.aux := by
  have h1 := statusCode_lt r.status
  have h2 := tag.isLt
  have h3 : itemByte3 phase false ring = (if phase = true then 128 else 0) + ring := by cases phase <;> simp [itemByte3, boolByte]
  subst h
  simp only [completionBytes, List.append_assoc, field_leBytes_here, field_leBytes_skip, field_leBytes_self, Nat.le_refl,
    Nat.reduceLeDiff, Nat.reduceSub, List.length_append, length_leBytes, h3, true_and]
  have h4 : (if phase = true then 128 else 0) ≤ 128 := by split <;> decide
  omega

theorem fields_notice (phase : Bool) {kind subject reason a b : Nat} {bs : List Byte} (hk : kind < 256) (hs : subject < 256)
    (hr : reason < 256) (ha : a < 2 ^ 48) (hb : b < 2 ^ 48) (h : bs = noticeBytes phase kind subject reason a b) :
    bs.length = 16 ∧ field bs 0 1 = kind ∧ field bs 1 1 = subject ∧ field bs 2 1 = reason ∧
      field bs 3 1 = (if phase = true then 128 else 0) + 64 ∧ field bs 4 6 = a ∧ field bs 10 6 = b := by
  have h3 : itemByte3 phase true 0 = (if phase = true then 128 else 0) + 64 := by cases phase <;> simp [itemByte3, boolByte]
  subst h
  simp only [noticeBytes, List.append_assoc, field_leBytes_here, field_leBytes_skip, field_leBytes_self, Nat.le_refl,
    Nat.reduceLeDiff, Nat.reduceSub, List.length_append, length_leBytes, h3, true_and]
  have h4 : (if phase = true then 128 else 0) ≤ 128 := by split <;> decide
  omega

/-- The values each item carries (R52, R71, R152). -/
theorem itemBytes_values (s : State) (phase : Bool) :
    (∀ c o r, s.ctx c = some o → o.result = some r →
      itemBytes s phase (.completion c) = completionBytes phase o.tag o.ring.val (s.ring o.ring).take r) ∧
    (∀ n, itemBytes s phase (.lap n) = noticeBytes phase 1 n.val 0 (s.line n).w ((s.line n).w / (s.line n).cap)) ∧
    (∀ k why take, (s.ring k).notice = some (why, take) →
      itemBytes s phase (.ringStopped k) = noticeBytes phase 2 k.val (stopCode why) take 0) ∧
    (s.store.state = .fault → itemBytes s phase .storeFault = noticeBytes phase 3 0 2 0 0) ∧
    ∀ k x, s.resp.faultSlots.get k = some x →
      itemBytes s phase (.respFaulted k) = noticeBytes phase 4 k.val x.cause x.value x.count := by
  refine ⟨fun c o r hc hr => ?_, fun n => rfl, fun k why take hk => ?_, fun hs => ?_, fun k x hk => ?_⟩
  · simp only [itemBytes, hc, hr, Option.getD_some]
  · simp only [itemBytes, hk]
  · simp only [itemBytes, hs, storeCode]
  · simp only [itemBytes, hk]

/-! ### Reports (R72) -/

/-- One entry of a report's extents (R72). -/
def extentEntry (e : Extent) : List Byte := leBytes 4 e.start ++ leBytes 4 e.count

theorem length_extentEntry (e : Extent) : (extentEntry e).length = 8 := by simp [extentEntry]

theorem extentBytes_eq (es : List Extent) :
    extentBytes es = es.flatMap extentEntry ++ List.replicate (64 - 8 * es.length) 0 := by
  rw [← length_flatMap_of_length length_extentEntry]
  rfl

theorem length_extentBytes {es : List Extent} (h : es.length ≤ 8) : (extentBytes es).length = 64 := by
  rw [extentBytes_eq, List.length_append, length_flatMap_of_length length_extentEntry, List.length_replicate]
  omega

theorem field_extentBytes {es : List Extent} {i : Nat} {e : Extent} (he : es[i]? = some e) (h1 : e.start < 2 ^ 32)
    (h2 : e.count < 2 ^ 32) : field (extentBytes es) (8 * i) 4 = e.start ∧ field (extentBytes es) (8 * i + 4) 4 = e.count := by
  obtain ⟨hi, rfl⟩ := List.getElem?_eq_some_iff.1 he
  have h0 := field_flatMap length_extentEntry es (List.replicate (64 - 8 * es.length) 0) hi 0 (n := 4) (by decide)
  have h4 := field_flatMap length_extentEntry es (List.replicate (64 - 8 * es.length) 0) hi 4 (n := 4) (by decide)
  rw [extentBytes_eq]
  rw [Nat.add_zero] at h0
  rw [h0, h4]
  simp only [extentEntry, field_leBytes_here, field_leBytes_skip, field_leBytes_self, Nat.le_refl, Nat.reduceSub]
  omega

theorem field_extentBytes_beyond {es : List Extent} {i : Nat} (h : es.length ≤ i) : field (extentBytes es) (8 * i) 8 = 0 := by
  rw [extentBytes_eq, field_append_right (by rw [length_flatMap_of_length length_extentEntry]; omega), field_replicate_zero]

theorem lineCode_le (st : LineState) : lineCode st ≤ 2 := by cases st <;> decide

theorem length_lineReport (n : LineId) {l : Line} (h : l.extents.length ≤ 8) : (lineReport n l).length = 128 := by
  simp [lineReport, length_extentBytes h]

/-- The extents of a line's report stand behind 64 bytes of fields. -/
theorem field_lineReport_extents (n : LineId) (l : Line) (j k : Nat) :
    field (lineReport n l) (64 + j) k = field (extentBytes l.extents) j k := by
  obtain ⟨xs, hxs, hlen⟩ : ∃ xs, lineReport n l = xs ++ extentBytes l.extents ∧ xs.length = 64 := ⟨_, rfl, by simp⟩
  rw [hxs, field_append_right (by omega), hlen, Nat.add_sub_cancel_left]

theorem field_replicate_zero_append (n : Nat) (xs : List Byte) : field (List.replicate n 0 ++ xs) 0 n = 0 := by
  rw [field_append_left (by simp), field_replicate_zero]

/-- The fields of a line's report before its extents. -/
theorem fields_lineReport (n : LineId) {l : Line} {bs : List Byte} (hch : l.channels ≤ 16) (hex : l.extents.length ≤ 8)
    (hcap : l.cap < 2 ^ 32) (hpark : l.park.length < 2 ^ 16) (hq : l.writers.length < 2 ^ 16) (hw : l.w < 2 ^ 48)
    (hf : l.f ≤ l.w) (h : bs = lineReport n l) :
    field bs 0 1 = lineCode l.state ∧ field bs 1 1 = l.channels ∧ field bs 2 1 = policyByte l.policy ∧
      field bs 3 1 = boolByte l.lap.on ∧ field bs 4 1 = l.lap.target.val ∧ field bs 5 1 = boolByte l.lapPending ∧
      field bs 6 1 = l.extents.length ∧ field bs 7 1 = n.val ∧ field bs 8 4 = l.cap ∧ field bs 12 2 = l.park.length ∧
      field bs 14 2 = l.writers.length ∧ field bs 16 8 = l.w ∧ field bs 24 8 = l.f ∧
      field bs 32 8 = oldest l ∧ field bs 40 8 = lapCount l ∧ field bs 48 16 = 0 := by
  have h1 := lineCode_le l.state
  have h2 := l.lap.target.isLt
  have h3 := n.isLt
  have h4 : policyByte l.policy ≤ 1 := by cases l.policy <;> decide
  have h5 := boolByte_le l.lap.on
  have h6 := boolByte_le l.lapPending
  have h7 : oldest l ≤ l.w := by unfold oldest; omega
  have h8 : lapCount l ≤ l.w := Nat.div_le_self _ _
  subst h
  unfold lineReport
  refine ⟨?_, ?_, ?_, ?_, ?_, ?_, ?_, ?_, ?_, ?_, ?_, ?_, ?_, ?_, ?_, ?_⟩ <;>
    simp (disch := omega) only [List.append_assoc, field_leBytes_lt, field_leBytes_skip, Nat.reduceSub,
      field_replicate_zero_append]

theorem le_foldl_max {xs : List Nat} {x : Nat} (h : x ∈ xs) : x ≤ xs.foldl max 0 := (foldl_max_spec xs 0).1.2 x h

/-- The largest count of a table is that of one of its extents (R29). -/
theorem largestFree_spec (es : List Extent) : (∀ e ∈ es, e.count ≤ largestFree es) ∧ (es = [] → largestFree es = 0) ∧
    (es ≠ [] → ∃ e ∈ es, e.count = largestFree es) := by
  have hle : ∀ e ∈ es, e.count ≤ largestFree es := fun e he => le_foldl_max (List.mem_map_of_mem he)
  refine ⟨hle, fun h => by simp [h, largestFree], fun h => ?_⟩
  rcases (foldl_max_spec (es.map Extent.count) 0).2 with h0 | hmem
  · obtain ⟨e, he⟩ := List.exists_mem_of_ne_nil es h
    have := hle e he
    exact ⟨e, he, by unfold largestFree at *; omega⟩
  · obtain ⟨e, he, hc⟩ := List.mem_map.1 hmem
    exact ⟨e, he, hc⟩

theorem count_le_blocksOf {es : List Extent} {e : Extent} (he : e ∈ es) : e.count ≤ blocksOf es :=
  List.single_le_sum (by simp) _ (List.mem_map_of_mem he)

theorem largestFree_le (es : List Extent) : largestFree es ≤ blocksOf es := by
  by_cases h : es = []
  · simp [h, largestFree]
  · obtain ⟨e, he, hc⟩ := (largestFree_spec es).2.2 h
    rw [← hc]
    exact count_le_blocksOf he

theorem fields_storeReport {c : StoreController} {bs : List Byte} (h1 : blocksOf c.freeExts < 2 ^ 32)
    (h2 : c.freeExts.length < 2 ^ 32) (h3 : c.corrected < 2 ^ 32) (h4 : c.forced < 2 ^ 32) (h : bs = storeReport c) :
    bs.length = 64 ∧ field bs 0 1 = storeCode c.state ∧ field bs 1 3 = 0 ∧ field bs 4 4 = blocksOf c.freeExts ∧
      field bs 8 4 = c.freeExts.length ∧ field bs 12 4 = largestFree c.freeExts ∧ field bs 16 4 = c.corrected ∧
      field bs 20 4 = c.forced ∧ field bs 24 40 = 0 := by
  have h5 : storeCode c.state ≤ 2 := by cases c.state <;> decide
  have h6 := largestFree_le c.freeExts
  subst h
  simp only [storeReport, List.append_assoc, field_leBytes_here, field_leBytes_skip, Nat.le_refl, Nat.reduceLeDiff,
    Nat.reduceSub, List.length_append, length_leBytes, List.length_replicate, field_replicate_zero, and_true, true_and]
  omega

/-- Settles O55: each string is put together from its fields in ascending order of offset. -/
theorem itemAndReportLayout : Obligations.ItemAndReportLayout := by
  refine ⟨fun phase tag ring take r bs => fields_completion phase tag,
    fun phase kind subject reason a b bs => fields_notice phase, fun s phase => ?_,
    fun n l bs hch hex hcap hpark hq hw hf h => ?_, fun c bs h1 h2 h3 h4 h => ?_⟩
  · obtain ⟨hcompletion, hlap, hstopped, hfault, hfaulted⟩ := itemBytes_values s phase
    refine ⟨hcompletion, hlap, fun k why take hk => ?_, hfault, hfaulted⟩
    rw [hstopped k why take hk]
    cases why <;> rfl
  · obtain ⟨g1, g2, g3, g4, g5, g6, g7, g8, g9, g10, g11, g12, g13, g14, g15, g16⟩ :=
      fields_lineReport n hch hex hcap hpark hq hw hf h
    have hpolicy : policyByte l.policy = if l.policy = .guarded then 1 else 0 := by cases l.policy <;> rfl
    refine ⟨by rw [h, length_lineReport n hex], g1, g2, g3.trans hpolicy, g4, g5, g6, g7, g8, g9, g10, g11, g12, g13, g14,
      g15, g16, fun i e he hs hc => ?_, fun i hi _ => ?_⟩
    · rw [h, Nat.add_assoc, field_lineReport_extents, field_lineReport_extents]
      exact field_extentBytes he hs hc
    · rw [h, field_lineReport_extents]
      exact field_extentBytes_beyond hi
  · obtain ⟨g0, g1, g2, g3, g4, g5, g6, g7, g8⟩ := fields_storeReport h1 h2 h3 h4 h
    obtain ⟨hle, hnil, hmem⟩ := largestFree_spec c.freeExts
    rw [g5]
    exact ⟨g0, g1, g2, g3, g4, hle, hnil, hmem, g6, g7, g8⟩

/-! ### The Mix Unit (R121) -/

/-- The nearest whole number, halves away from zero. -/
theorem roundGain_nearest (x : Int) : 2 * (16384 * roundGain x - x) ≤ 16384 ∧ 2 * (x - 16384 * roundGain x) ≤ 16384 ∧
    (2 * (x - 16384 * roundGain x) = 16384 → x < 0) ∧ (2 * (16384 * roundGain x - x) = 16384 → 0 < x) := by
  unfold roundGain
  split <;> omega

theorem clampSample_eq (x : Int) : clampSample x =
    if 2147483647 < x then 2147483647 else if x < -2147483648 then -2147483648 else x := by
  unfold clampSample
  split
  · omega
  · split <;> omega

@[simp] theorem length_addSamples (xs ys : List Int) : (addSamples xs ys).length = min xs.length ys.length := by
  induction xs generalizing ys with
  | nil => simp [addSamples]
  | cons x xs ih => cases ys <;> simp [addSamples, ih]

theorem getD_addSamples {xs ys : List Int} {i : Nat} (hx : i < xs.length) (hy : i < ys.length) :
    (addSamples xs ys).getD i 0 = xs.getD i 0 + ys.getD i 0 := by
  induction xs generalizing ys i with
  | nil => simp at hx
  | cons x xs ih =>
    cases ys with
    | nil => simp at hy
    | cons y ys =>
      cases i with
      | zero => simp [addSamples]
      | succ i => simpa [addSamples] using ih (by simpa using hx) (by simpa using hy)

/-- The exact sum of sample times gain over all taps. -/
theorem mixSums_spec {taps : List (Int × List Int)} {n : Nat} (hne : taps ≠ []) (h : ∀ t ∈ taps, t.2.length = n) :
    (mixSums taps).length = n ∧
      ∀ i, i < n → (mixSums taps).getD i 0 = (taps.map fun t => t.2.getD i 0 * t.1).sum := by
  induction taps with
  | nil => exact absurd rfl hne
  | cons t ts ih =>
    obtain ⟨g, xs⟩ := t
    obtain ⟨hxs, hts⟩ := List.forall_mem_cons.1 h
    have hmap : ∀ i, i < n → (xs.map (· * g)).getD i 0 = xs.getD i 0 * g := fun i hi => by
      have hi' : i < xs.length := by simpa [hxs] using hi
      simp [hi']
    cases ts with
    | nil => exact ⟨by simpa [mixSums] using hxs, fun i hi => by simpa [mixSums] using hmap i hi⟩
    | cons u us =>
      obtain ⟨hlen, hget⟩ := ih (by simp) hts
      have hadd : mixSums ((g, xs) :: u :: us) = addSamples (xs.map (· * g)) (mixSums (u :: us)) := by
        simp [mixSums]
      have hlx : (xs.map (· * g)).length = n := by simpa using hxs
      refine ⟨by rw [hadd, length_addSamples, hlx, hlen, Nat.min_self], fun i hi => ?_⟩
      rw [hadd, getD_addSamples (by omega) (by omega), hmap i hi, hget i hi]
      simp

theorem countP_eq_range (p : Int → Bool) (xs : List Int) :
    xs.countP p = (List.range xs.length).countP fun i => p (xs.getD i 0) := by
  have hxs : xs = (List.range xs.length).map fun i => xs.getD i 0 :=
    List.ext_getElem (by simp) fun i h _ => by simp [h]
  conv_lhs => rw [hxs]
  rw [List.countP_map]
  rfl

/-- A gain of 1 passes every sample on as it is, and limits none. -/
theorem mixOutput_unity {xs : List Int} (h : ∀ x ∈ xs, -2147483648 ≤ x ∧ x ≤ 2147483647) :
    mixOutput [(16384, xs)] = (xs, 0) := by
  have hround : (mixSums [(16384, xs)]).map roundGain = xs := by
    simp only [mixSums, List.map_map]
    refine (List.map_congr_left fun x _ => ?_).trans (List.map_id xs)
    simp only [Function.comp_apply, roundGain, id_eq]
    split <;> omega
  have hclamp : ∀ x ∈ xs, clampSample x = x := fun x hx => by
    have := h x hx
    unfold clampSample
    omega
  simp only [mixOutput, hround]
  refine Prod.ext ((List.map_congr_left hclamp).trans (List.map_id xs)) ?_
  rw [List.countP_eq_zero]
  intro x hx
  simp [hclamp x hx]

/-- A sample's four bytes read back as the sample (R102, R122). -/
theorem samples_sampleBytes {x : Int} (rest : List Byte) (h1 : -2147483648 ≤ x) (h2 : x ≤ 2147483647) :
    samples (sampleBytes x ++ rest) = x :: samples rest := by
  have hcons : ∀ v, leBytes 4 v = [BitVec.ofNat 8 v, BitVec.ofNat 8 (v / 256), BitVec.ofNat 8 (v / 256 / 256),
      BitVec.ofNat 8 (v / 256 / 256 / 256)] := fun v => rfl
  have hle := leNat_leBytes 4 (BitVec.ofInt 32 x).toNat
  unfold sampleBytes
  rw [hcons] at hle ⊢
  simp only [List.cons_append, List.nil_append, samples, hle]
  have hmod : (BitVec.ofInt 32 x).toNat % 256 ^ 4 = (BitVec.ofInt 32 x).toNat := Nat.mod_eq_of_lt (BitVec.isLt _)
  rw [hmod, BitVec.ofNat_toNat, BitVec.setWidth_eq, BitVec.toInt_ofInt]
  congr 1
  rw [Int.bmod_def]
  omega

theorem field_sampleBytes {x : Int} (h1 : -2147483648 ≤ x) (h2 : x ≤ 2147483647) :
    (field (sampleBytes x) 0 4 : Int) = if 0 ≤ x then x else x + 4294967296 := by
  unfold sampleBytes
  have hlt : (BitVec.ofInt 32 x).toNat < 256 ^ 4 := BitVec.isLt _
  rw [field_leBytes_self, Nat.mod_eq_of_lt hlt, BitVec.toNat_ofInt]
  split <;> omega

/-- Settles O59: the sums by induction on the taps, the rounding and the limits over the integers. -/
theorem mixArithmetic : Obligations.MixArithmetic := by
  refine ⟨roundGain_nearest, clampSample_eq, fun taps n hne h => ?_, fun xs => mixOutput_unity,
    fun x rest h1 h2 => ⟨by simp [sampleBytes], samples_sampleBytes rest h1 h2, field_sampleBytes h1 h2⟩⟩
  obtain ⟨hlen, hget⟩ := mixSums_spec hne h
  have hout : ∀ i, i < n → (mixSums taps)[i]? = some (taps.map fun t => t.2.getD i 0 * t.1).sum := fun i hi => by
    have hi' : i < (mixSums taps).length := by omega
    rw [List.getElem?_eq_getElem hi', ← hget i hi, List.getD_eq_getElem _ _ hi']
  refine ⟨hlen, by simp [mixOutput, hlen], fun i hi => ⟨hget i hi, ?_⟩, ?_⟩
  · simp [mixOutput, List.getD_eq_getElem?_getD, hout i hi]
  · simp only [mixOutput, List.countP_map]
    rw [countP_eq_range, hlen]
    refine List.countP_congr fun i hi => ?_
    simp only [Function.comp_apply, hget i (List.mem_range.1 hi)]

end Sys2Proof.Machine

/-! PROOF. Which blocks each update and each shared operation changes: what the frames of the statements are put
together from. -/

namespace Sys2Proof.Machine

variable (s : State)

/-! ### Which blocks an update changes -/

theorem onlyIn_setHost (h : HostPort) : OnlyIn [.hostPort] s (s.setHost h) :=
  ⟨rfl, rfl, fun b hb => by cases b <;> simp_all [Same]⟩

theorem onlyIn_setStore (c : StoreController) : OnlyIn [.storeController] s (s.setStore c) :=
  ⟨rfl, rfl, fun b hb => by cases b <;> simp_all [Same]⟩

theorem onlyIn_setCtx (c : CtxId) (o : Option Operation) : OnlyIn [.scheduler] s (s.setCtx c o) :=
  ⟨rfl, rfl, fun b hb => by cases b <;> simp_all [Same]⟩

theorem onlyIn_modCtx (c : CtxId) (g : Operation → Operation) : OnlyIn [.scheduler] s (s.modCtx c g) :=
  ⟨by simp, by simp, fun b hb => by cases b <;> simp_all [Same]⟩

theorem onlyIn_setPhase (c : CtxId) (p : Phase) : OnlyIn [.scheduler] s (s.setPhase c p) := onlyIn_modCtx s c _

theorem onlyIn_setReady (l : List CtxId) : OnlyIn [.scheduler] s (s.setReady l) :=
  ⟨rfl, rfl, fun b hb => by cases b <;> simp_all [Same]⟩

theorem onlyIn_setLine (n : LineId) (x : Line) : OnlyIn [.lineTable] s (s.setLine n x) :=
  ⟨rfl, rfl, fun b hb => by cases b <;> simp_all [Same]⟩

theorem onlyIn_setParkTimer (l : List (CtxId × Nat)) : OnlyIn [.parkTimer] s (s.setParkTimer l) :=
  ⟨rfl, rfl, fun b hb => by cases b <;> simp_all [Same]⟩

theorem onlyIn_setMover (m : MoverId) (x : Option Mover) : OnlyIn [.movers] s (s.setMover m x) :=
  ⟨rfl, rfl, fun b hb => by cases b <;> simp_all [Same]⟩

theorem onlyIn_setRespRing (r : RespId) (x : RespRing) : OnlyIn [.responseUnit] s (s.setRespRing r x) :=
  ⟨rfl, rfl, fun b hb => by cases b <;> simp_all [Same]⟩

theorem onlyIn_setPosts (l : List Posted) : OnlyIn [.responseUnit] s (s.setPosts l) :=
  ⟨rfl, rfl, fun b hb => by cases b <;> simp_all [Same]⟩

theorem onlyIn_setFaultSlot (r : RespId) (x : Option FaultInfo) : OnlyIn [.responseUnit] s (s.setFaultSlot r x) :=
  ⟨rfl, rfl, fun b hb => by cases b <;> simp_all [Same]⟩

theorem onlyIn_setFetch (f : Option Fetch) : OnlyIn [.ringFetcher] s (s.setFetch f) :=
  ⟨rfl, rfl, fun b hb => by cases b <;> simp_all [Same]⟩

/-! ### Which blocks a shared operation changes -/

theorem onlyIn_post (r : RespId) (i : PostItem) : OnlyIn [.responseUnit] s (post r i s) := by
  unfold post
  split
  · exact onlyIn_setPosts s _
  · exact onlyIn_refl s _

theorem onlyIn_freeCtx (c : CtxId) : OnlyIn [.scheduler, .ringFetcher] s (freeCtx c s) := by
  unfold freeCtx
  split
  · exact onlyIn_refl s _
  · exact ((onlyIn_setCtx s c _).mono (by simp)).trans ((onlyIn_setRing _ _ _).mono (by simp))

theorem onlyIn_finish (c : CtxId) (st : Status) (p a : Nat) :
    OnlyIn [.scheduler, .ringFetcher, .responseUnit] s (finish c st p a s) := by
  unfold finish
  split
  · exact onlyIn_refl s _
  · dsimp only
    split
    · exact ((onlyIn_setCtx s c _).mono (by simp)).trans ((onlyIn_post _ _ _).mono (by simp))
    · exact ((onlyIn_setCtx s c _).mono (by simp)).trans ((onlyIn_freeCtx _ _).mono (by simp))

theorem onlyIn_raiseStoreFault : OnlyIn [.storeController, .responseUnit] s (raiseStoreFault s) := by
  unfold raiseStoreFault
  split
  · exact ((onlyIn_setStore s _).mono (by simp)).trans ((onlyIn_post _ _ _).mono (by simp))
  · exact onlyIn_refl s _

theorem onlyIn_makeReady (c : CtxId) : OnlyIn [.scheduler] s (makeReady c s) :=
  (onlyIn_setPhase s c _).trans (onlyIn_setReady _ _)

theorem onlyIn_activate (n : LineId) : OnlyIn [.scheduler] s (activate n s) := by
  unfold activate
  split
  · exact onlyIn_refl s _
  · split
    · exact onlyIn_setPhase s _ _
    · exact onlyIn_makeReady s _

theorem onlyIn_joinQueue (n : LineId) (c : CtxId) (M : Nat) : OnlyIn [.scheduler, .lineTable] s (joinQueue n c M s) := by
  unfold joinQueue
  dsimp only
  split
  · exact ((onlyIn_setLine s n _).mono (by simp)).trans ((onlyIn_activate _ _).mono (by simp))
  · exact ((onlyIn_setLine s n _).mono (by simp)).trans ((onlyIn_setPhase _ _ _).mono (by simp))

theorem onlyIn_applyHeld (n : LineId) :
    OnlyIn [.scheduler, .lineTable, .ringFetcher, .responseUnit] s (applyHeld n s) := by
  unfold applyHeld
  dsimp only
  split
  · split
    · exact ((onlyIn_setLine s n _).mono (by simp)).trans ((onlyIn_finish _ _ _ _ _).mono (by simp))
    · exact (onlyIn_setLine s n _).mono (by simp)
  · exact onlyIn_refl s _

theorem onlyIn_leaveHead (n : LineId) :
    OnlyIn [.scheduler, .lineTable, .ringFetcher, .responseUnit] s (leaveHead n s) :=
  (((onlyIn_setLine s n _).mono (by simp)).trans (onlyIn_applyHeld _ n)).trans ((onlyIn_activate _ n).mono (by simp))

theorem onlyIn_drainTest (n : LineId) :
    OnlyIn [.scheduler, .lineTable, .ringFetcher, .responseUnit, .storeController] s (drainTest n s) := by
  unfold drainTest
  dsimp only
  split
  · have freed := ((onlyIn_setStore s { s.store with
        freeExts := returnExtents (s.line n).extents s.store.freeExts }).mono (bs :=
        [.scheduler, .lineTable, .ringFetcher, .responseUnit, .storeController]) (by simp)).trans
      ((onlyIn_setLine _ n Line.freeLine).mono (by simp))
    split
    · exact freed.trans ((onlyIn_finish _ _ _ _ _).mono (by simp))
    · exact freed
  · exact onlyIn_refl s _

theorem onlyIn_guardRecheck (n : LineId) : OnlyIn [.scheduler] s (guardRecheck n s) := by
  unfold guardRecheck
  dsimp only
  split
  · exact onlyIn_refl s _
  · split
    · exact onlyIn_makeReady s _
    · exact onlyIn_refl s _

theorem onlyIn_removePin (n : LineId) (c : CtxId) :
    OnlyIn [.scheduler, .lineTable, .ringFetcher, .responseUnit, .storeController] s (removePin n c s) :=
  (((onlyIn_setLine s n _).mono (by simp)).trans ((onlyIn_guardRecheck _ n).mono (by simp))).trans (onlyIn_drainTest _ n)

theorem onlyIn_unpark (n : LineId) (c : CtxId) : OnlyIn [.lineTable, .parkTimer] s (unpark n c s) :=
  ((onlyIn_setLine s n _).mono (by simp)).trans ((onlyIn_setParkTimer _ _).mono (by simp))

theorem onlyIn_parkOn (n : LineId) (c : CtxId) (e d : Nat) : OnlyIn [.lineTable, .parkTimer] s (parkOn n c e d s) :=
  ((onlyIn_setLine s n _).mono (by simp)).trans ((onlyIn_setParkTimer _ _).mono (by simp))

theorem onlyIn_handOver (x : Waiter) : OnlyIn [.hostPort] s (handOver x s) := onlyIn_setHost s _

theorem onlyIn_awaitPlace (x : Waiter) : OnlyIn [.hostPort] s (awaitPlace x s) := by
  unfold awaitPlace
  split
  · exact onlyIn_refl s _
  · exact onlyIn_setHost s _

theorem onlyIn_sendMessage (r : RespId) : OnlyIn [.hostPort] s (sendMessage r s) := by
  unfold sendMessage
  dsimp only
  split
  · exact onlyIn_refl s _
  · split
    · exact onlyIn_setHost s _
    · exact onlyIn_handOver s _

theorem onlyIn_sendInterrupt (r : RespId) : OnlyIn [.hostPort, .responseUnit] s (sendInterrupt r s) :=
  ((onlyIn_setRespRing s r _).mono (by simp)).trans ((onlyIn_sendMessage _ r).mono (by simp))

theorem onlyIn_askRead (w : Requester) (a : HostAddr) (n : Nat) : OnlyIn [.hostPort] s (askRead w a n s) :=
  ⟨by simp, by simp, fun b hb => by cases b <;> simp_all [Same]⟩

theorem onlyIn_issueReads : OnlyIn [.hostPort] s (issueReads s) :=
  ⟨by simp, by simp, fun b hb => by cases b <;> simp_all [Same]⟩

theorem onlyIn_askStore (m : MoverId) : OnlyIn [.storeController] s (askStore m s) := by
  unfold askStore
  split
  · exact onlyIn_refl s _
  · exact onlyIn_setStore s _

theorem onlyIn_askTransfers (fuel : Nat) (m : MoverId) : OnlyIn [.hostPort, .movers] s (askTransfers fuel m s) :=
  ⟨by simp, by simp, fun b hb => by cases b <;> simp_all [Same]⟩

theorem onlyIn_pump (m : MoverId) : OnlyIn [.hostPort, .movers, .storeController] s (pump m s) :=
  ((onlyIn_askTransfers s _ m).mono (by simp)).trans ((onlyIn_askStore _ m).mono (by simp))

theorem onlyIn_pumpAll : OnlyIn [.hostPort, .movers, .storeController] s (pumpAll s) :=
  (((onlyIn_pump s 0).trans (onlyIn_pump _ 1)).trans (onlyIn_pump _ 2)).trans (onlyIn_pump _ 3)

/-- The quiescence rule leaves every other field of the Host Port as it is (R175). -/
@[simp] theorem settleIdle_hostFields :
    (settleIdle s).host.enable = s.host.enable ∧
    (settleIdle s).host.idleDelay = s.host.idleDelay ∧
    (settleIdle s).host.ctrlBaseLo = s.host.ctrlBaseLo ∧
    (settleIdle s).host.ctrlBaseHi = s.host.ctrlBaseHi ∧
    (settleIdle s).host.ctrlSize = s.host.ctrlSize ∧
    (settleIdle s).host.resp0BaseLo = s.host.resp0BaseLo ∧
    (settleIdle s).host.resp0BaseHi = s.host.resp0BaseHi ∧
    (settleIdle s).host.resp0Size = s.host.resp0Size ∧
    (settleIdle s).host.resp0Mod = s.host.resp0Mod ∧
    (settleIdle s).host.configError = s.host.configError ∧
    (settleIdle s).host.resetCause = s.host.resetCause ∧
    (settleIdle s).host.linkUp = s.host.linkUp ∧
    (settleIdle s).host.permitted = s.host.permitted ∧
    (settleIdle s).host.writeQ = s.host.writeQ ∧
    (settleIdle s).host.waiters = s.host.waiters ∧
    (settleIdle s).host.reads = s.host.reads ∧
    (settleIdle s).host.nextRead = s.host.nextRead ∧
    (settleIdle s).host.vectors = s.host.vectors ∧
    (settleIdle s).host.msgEnable = s.host.msgEnable := by
  rw [settleIdle_host]
  simp only [and_self]

/-- A power sub-state that changes alone. -/
theorem quietWake_store : (quietWake s).store =
    if isQuiet s = true ∧ s.store.power = .selfRefresh then { s.store with power := .exiting } else s.store := by
  cases h : s.host.quiesce with
  | awake => simp [quietWake, isQuiet, h]
  | idling d p => simp [quietWake, isQuiet, h]
  | quiet p =>
    simp only [quietWake, isQuiet, beginExit, h, true_and]
    split <;> simp_all

end Sys2Proof.Machine

/-! PROOF. Steps and time, refreshes, calibration, self-refresh, and the register window (R21, R36 to R39, R73, R163 to
R177). -/

namespace Sys2Proof.Machine

/-- Settles O1: the queue's front is the command taken; with none, `tick` is what the statement writes out. -/
theorem stepRunsFrontCommand : Obligations.StepRunsFrontCommand := by
  refine ⟨fun c s => rfl, fun s hp => ?_⟩
  simp only [step, hp, tick, timerRuns, Bool.and_eq_true, decide_eq_true_eq]

/-! ### The store -/

variable (s : State)

theorem timerRuns_iff : timerRuns s = true ↔ s.store.state = .ready ∧ s.store.power = .active := by
  simp [timerRuns]

/-- A command that replaces the Store Controller and nothing else. -/
theorem took_setStore {c : StoreController} {a : Answer} (h : a = took (s.setStore c)) :
    ∃ t, a = .next t ∧ OnlyIn [.storeController] s t ∧ t.store = c :=
  ⟨_, h, onlyIn_settleIdle s (onlyIn_setStore s c), by simp⟩

/-- Settles O21: each refresh command's conditions are those of the statement. -/
theorem refreshSteps : Obligations.RefreshSteps := by
  refine fun s => ⟨fun hr ha ht => ?_, fun hr ha h0 h8 hb hw => ?_, fun hr ha h8 hb => ?_, fun hb => ?_⟩
  all_goals refine took_setStore s ?_
  · exact if_pos ⟨(timerRuns_iff s).2 ⟨hr, ha⟩, ht⟩
  · exact if_pos ⟨(timerRuns_iff s).2 ⟨hr, ha⟩, h0, h8, hb, hw⟩
  · have hforced : exec .forcedRefresh s = _ := if_pos ⟨(timerRuns_iff s).2 ⟨hr, ha⟩, h8, hb⟩
    rw [hforced, h8]
    rfl
  · exact if_pos hb

@[simp] theorem raiseStoreFault_store : (raiseStoreFault s).store =
    { s.store with faultPending := s.store.faultPending || decide ((s.respRing 0).state = .active) } := by
  unfold raiseStoreFault
  by_cases h : s.store.faultPending = false ∧ (s.respRing 0).state = .active
  · simp [h]
  · rw [if_neg h]
    cases hf : s.store.faultPending with
    | true =>
      conv_lhs => rw [show s.store = { s.store with faultPending := s.store.faultPending } from rfl, hf]
      simp
    | false =>
      have ha : (s.respRing 0).state ≠ .active := fun e => h ⟨hf, e⟩
      simp [ha, ← hf]

theorem raiseStoreFault_posts : (raiseStoreFault s).resp.posts = s.resp.posts ++
    (if s.store.faultPending = false ∧ (s.respRing 0).state = .active then [⟨0, .storeFault⟩] else []) := by
  unfold raiseStoreFault
  split
  · next h => simp [post_posts, h.2]
  · simp

/-! ### ENABLE takes effect (R62, R144, R164) -/

theorem onlyIn_enableTakesEffect :
    OnlyIn [.hostPort, .ringFetcher, .responseUnit, .storeController] s (enableTakesEffect s) := by
  have on : OnlyIn [.hostPort, .ringFetcher, .responseUnit, .storeController] s
      (((s.setHost { s.host with enable := .on }).setRing 0 (controlRing s.host (s.ring 0))).setRespRing 0
        (responseRing0 s.host)) :=
    (((onlyIn_setHost s _).mono (by simp)).trans ((onlyIn_setRing _ 0 _).mono (by simp))).trans
      ((onlyIn_setRespRing _ 0 _).mono (by simp))
  unfold enableTakesEffect
  dsimp only
  split
  · exact on.trans ((onlyIn_raiseStoreFault _).mono (by simp))
  · exact on

/-- What ENABLE leaves when it takes effect. -/
theorem enableTakesEffect_values : (enableTakesEffect s).host = { s.host with enable := .on } ∧
    (∀ k, (enableTakesEffect s).ring k = if k = 0 then controlRing s.host (s.ring 0) else s.ring k) ∧
    (∀ r, (enableTakesEffect s).respRing r = if r = 0 then responseRing0 s.host else s.respRing r) ∧
    (enableTakesEffect s).store =
      (if s.store.state = .fault then { s.store with faultPending := true } else s.store) ∧
    (enableTakesEffect s).resp.posts = s.resp.posts ++
      (if s.store.state = .fault ∧ s.store.faultPending = false then [⟨0, .storeFault⟩] else []) := by
  have hactive : (responseRing0 s.host).state = .active := rfl
  have hring : ∀ (k : RingId) (x : CmdRing) (t : State), (t.setRing 0 x).ring k = if k = 0 then x else t.ring k := by
    intro k x t; by_cases h : k = 0 <;> simp [h]
  have hresp : ∀ (r : RespId) (x : RespRing) (t : State), (t.setRespRing 0 x).respRing r = if r = 0 then x else t.respRing r := by
    intro r x t; by_cases h : r = 0 <;> simp [h]
  have hraise : ∀ (t : State) (r : RespId), (raiseStoreFault t).respRing r = t.respRing r := by
    intro t r; simp [State.respRing]
  have hraise' : ∀ (t : State) (k : RingId), (raiseStoreFault t).ring k = t.ring k := by
    intro t k; simp [State.ring]
  unfold enableTakesEffect
  by_cases hf : s.store.state = .fault
  · simp only [hf, if_true, true_and, raiseStoreFault_posts]
    refine ⟨by simp, fun k => by rw [hraise']; simp [hring], fun r => by rw [hraise]; simp [hresp], ?_, ?_⟩
    · simp [hactive, hf]
    · simp [hactive]
  · simp only [hf, if_false, false_and]
    exact ⟨rfl, fun k => by simp [hring], fun r => by simp [hresp], rfl, by simp⟩

/-- Settles O20: the store's new state, then the held ENABLE, which raises the notice again where it was dropped. -/
theorem calibrationComplete : Obligations.CalibrationComplete := by
  intro s ok hcal
  let u : State := if ok then calibrated ok s else raiseStoreFault (calibrated ok s)
  have hexec : exec (.calibrationComplete ok) s = took (if u.host.enable = .held then enableTakesEffect u else u) :=
    if_pos hcal
  have hu : OnlyIn [.hostPort, .ringFetcher, .responseUnit, .storeController] s u := by
    have ended := (onlyIn_setStore s { s.store with state := if ok then .ready else .fault, debt := 0, timer := 0 }).mono
      (bs := [.hostPort, .ringFetcher, .responseUnit, .storeController]) (by simp)
    cases ok with
    | true => exact ended
    | false => exact ended.trans ((onlyIn_raiseStoreFault _).mono (by simp))
  have hhost : u.host = s.host := by cases ok <;> simp [u, calibrated]
  have hfetch : u.fetcher = s.fetcher := by cases ok <;> simp [u, calibrated]
  have hrings : u.resp.rings = s.resp.rings := by cases ok <;> simp [u, calibrated]
  have hstore : u.store.state = (if ok = true then .ready else .fault) ∧ u.store.debt = 0 ∧ u.store.timer = 0 ∧
      u.store.cells = s.store.cells ∧ u.store.freeExts = s.store.freeExts ∧ u.store.power = s.store.power := by
    cases ok <;> simp [u, calibrated]
  rw [hexec]
  by_cases hen : s.host.enable = .held
  · have hen' : u.host.enable = .held := by rw [hhost, hen]
    obtain ⟨ehost, ering, eresp, estore, -⟩ := enableTakesEffect_values u
    simp only [if_pos hen', if_pos hen]
    refine ⟨_, rfl, onlyIn_settleIdle s (hu.trans (onlyIn_enableTakesEffect u)), ?_⟩
    simp only [settleIdle_frame, settleIdle_ring, settleIdle_respRing, estore, ering, eresp, settleIdle_hostFields, ehost]
    obtain ⟨h1, h2, h3, h4, h5, h6⟩ := hstore
    cases ok with
    | true => simp [h1, h2, h3, h4, h5, h6, controlRing, CmdRing.disabledRing, responseRing0, RespRing.absentRing, hhost]
    | false => simp [h1, h2, h3, h4, h5, h6, controlRing, CmdRing.disabledRing, responseRing0, RespRing.absentRing, hhost]
  · have hen' : u.host.enable ≠ .held := by rw [hhost]; exact hen
    simp only [if_neg hen', if_neg hen]
    refine ⟨_, rfl, onlyIn_settleIdle s hu, ?_⟩
    obtain ⟨h1, h2, h3, h4, h5, h6⟩ := hstore
    simp [h1, h2, h3, h4, h5, h6, hhost, hfetch, hrings]

/-! ### Self-refresh (R38, R39, R176) -/

@[simp] theorem isQuiet_setStore (c : StoreController) : isQuiet (s.setStore c) = isQuiet s := rfl

/-- The comparison of the post indices (R176). -/
theorem compareSnapshot_values (p : List Nat) :
    OnlyIn [.storeController] s (compareSnapshot p s) ∧
      (s.fetcher.rings.rows.map CmdRing.post = p → isQuiet (compareSnapshot p s) = true ∧ (compareSnapshot p s).store = s.store) ∧
      (s.fetcher.rings.rows.map CmdRing.post ≠ p →
        isQuiet (compareSnapshot p s) = false ∧ (compareSnapshot p s).store = (quietWake s).store) := by
  unfold compareSnapshot postIndices
  split
  · next h => exact ⟨⟨rfl, rfl, fun b hb => by cases b <;> simp_all [Same]⟩, fun _ => ⟨rfl, rfl⟩, fun e => absurd h e⟩
  · next h => exact ⟨onlyIn_quietWake s, fun e => absurd e h, fun _ => ⟨isQuiet_quietWake s, rfl⟩⟩

theorem onlyIn_enterSelfRefresh : OnlyIn [.storeController] s (enterSelfRefresh s) := onlyIn_setStore s _

/-- The quiescence state is no block's. -/
theorem onlyIn_setQuiesce (q : Quiesce) : OnlyIn [] s (s.setHost { s.host with quiesce := q }) :=
  ⟨rfl, rfl, fun b _ => by cases b <;> simp [Same]⟩

/-- Settles O25: the entry to QUIET, the comparison behind it, and the end of an exit. -/
theorem quiescence : Obligations.Quiescence := by
  refine ⟨fun s deadline p hq hd hr ha => ?_, fun s deadline p hq hd hf ha => ?_, fun s he hq => ?_,
    fun s p he hr hq => ?_⟩
  · let u := enterSelfRefresh (s.setHost { s.host with quiesce := .quiet (some p) })
    have hexec : exec .idleDeadlineExpiry s = took (compareSnapshot p u) := by
      simp [exec, execIdleDeadlineExpiry, hq, hd, hr, ha, u]
    obtain ⟨honly, hsame, hdiff⟩ := compareSnapshot_values u p
    have hu : OnlyIn [.storeController] s u := ((onlyIn_setQuiesce s _).mono (by simp)).trans (onlyIn_enterSelfRefresh _)
    refine ⟨_, hexec, onlyIn_settleIdle s (hu.trans honly), ?_⟩
    simp only [isQuiet_settleIdle, settleIdle_frame]
    split
    · next h => exact hsame h
    · next h =>
      refine ⟨(hdiff h).1, ?_⟩
      rw [(hdiff h).2, quietWake_store]
      simp [u, enterSelfRefresh, isQuiet]
  · let u := s.setHost { s.host with quiesce := .quiet (some p) }
    have hexec : exec .idleDeadlineExpiry s = took (compareSnapshot p u) := by
      simp [exec, execIdleDeadlineExpiry, hq, hd, hf, u]
    obtain ⟨honly, hsame, hdiff⟩ := compareSnapshot_values u p
    have hu : OnlyIn [] s u := onlyIn_setQuiesce s _
    have hstore : (compareSnapshot p u).store = s.store := by
      by_cases h : s.fetcher.rings.rows.map CmdRing.post = p
      · exact (hsame h).2
      · rw [(hdiff h).2, quietWake_store]; simp [u, ha]
    have hnone : OnlyIn [] s (compareSnapshot p u) := by
      obtain ⟨hp, hn, hb⟩ := ((hu.mono (bs := [.storeController]) (by simp)).trans honly)
      refine ⟨hp, hn, fun b _ => ?_⟩
      cases b
      case storeController => exact hstore
      all_goals exact hb _ (by simp)
    refine ⟨_, hexec, onlyIn_settleIdle s hnone, ?_⟩
    rw [isQuiet_settleIdle]
    by_cases h : s.fetcher.rings.rows.map CmdRing.post = p
    · rw [(hsame h).1, decide_eq_true h]
    · rw [(hdiff h).1, decide_eq_false h]
  · refine took_setStore s ?_
    cases h : s.host.quiesce with
    | awake => simp [exec, execSelfRefreshExitEnd, he, h]
    | idling d p => simp [exec, execSelfRefreshExitEnd, he, h]
    | quiet p => simp [isQuiet, h] at hq
  · let u := enterSelfRefresh (s.setStore { s.store with power := .active, debt := 0, timer := 0 })
    have hexec : exec .selfRefreshExitEnd s = took (compareSnapshot p u) := by
      simp [exec, execSelfRefreshExitEnd, he, hr, hq, u]
    obtain ⟨honly, hsame, hdiff⟩ := compareSnapshot_values u p
    have hu : OnlyIn [.storeController] s u := (onlyIn_setStore s _).trans (onlyIn_enterSelfRefresh _)
    refine ⟨_, hexec, onlyIn_settleIdle s (hu.trans honly), ?_⟩
    simp only [isQuiet_settleIdle, settleIdle_frame]
    split
    · next h => exact ⟨(hsame h).1, by rw [(hsame h).2]; rfl⟩
    · next h =>
      refine ⟨(hdiff h).1, ?_⟩
      rw [(hdiff h).2, quietWake_store]
      simp [u, enterSelfRefresh, isQuiet, hq]

/-! ### The register window (R73, R163 to R167) -/

theorem linesRetained_le : linesRetained s ≤ 256 := List.countP_le_length.trans s.lines.len.le

/-- The value of STATUS: its fields do not overlap. -/
theorem toNat_statusWord : (statusWord s).toNat = boolByte (decide (s.host.enable = .on)) + 2 * boolByte (isQuiet s) +
    4 * storeCode s.store.state + 16 * ringCode (s.ring 0).state +
    128 * boolByte (decide ((s.respRing 0).state = .faulted)) + 256 * boolByte s.host.configError +
    4096 * causeCode s.host.resetCause + 65536 * linesRetained s := by
  have h1 := boolByte_le (decide (s.host.enable = .on))
  have h2 := boolByte_le (isQuiet s)
  have h3 : storeCode s.store.state ≤ 2 := by cases s.store.state <;> decide
  have h4 : ringCode (s.ring 0).state ≤ 4 := by cases (s.ring 0).state <;> decide
  have h5 := boolByte_le (decide ((s.respRing 0).state = .faulted))
  have h6 := boolByte_le s.host.configError
  have h7 : causeCode s.host.resetCause ≤ 3 := by cases s.host.resetCause <;> decide
  have h8 := linesRetained_le s
  unfold statusWord
  rw [BitVec.toNat_ofNat]
  omega

theorem decide_boolByte (b : Bool) : decide (boolByte b % 2 = 1) = b := by cases b <;> rfl

/-- Settles O15: each field of STATUS is its bits of the value, each index register its row. -/
theorem statusReads : Obligations.StatusReads := by
  intro s
  have hval := toNat_statusWord s
  have h1 := boolByte_le (decide (s.host.enable = .on))
  have h2 := boolByte_le (isQuiet s)
  have h3 : storeCode s.store.state ≤ 2 := by cases s.store.state <;> decide
  have h4 : ringCode (s.ring 0).state ≤ 4 := by cases (s.ring 0).state <;> decide
  have h5 := boolByte_le (decide ((s.respRing 0).state = .faulted))
  have h6 := boolByte_le s.host.configError
  have h7 : causeCode s.host.resetCause ≤ 3 := by cases s.host.resetCause <;> decide
  have h8 := linesRetained_le s
  have hword : regRead s 0x04 = statusWord s := by simp [regRead]
  have hbit : ∀ (i : Nat) (b : Bool), (statusWord s).toNat / 2 ^ i % 2 = boolByte b → (statusWord s).getLsbD i = b := by
    intro i b h
    rw [BitVec.getLsbD, Nat.testBit_eq_decide_div_mod_eq, h]
    cases b <;> rfl
  rw [hword]
  simp only [BitVec.extractLsb'_toNat, Nat.shiftRight_eq_div_pow]
  refine ⟨by simp [regRead, Config.ident], hbit 0 _ ?_, hbit 1 _ ?_, ?_, ?_, hbit 7 _ ?_, hbit 8 _ ?_, ?_, ?_, fun k => ?_,
    fun r => ?_⟩
  iterate 8 rw [hval]; omega
  · have hk := k.isLt
    have hoff : (Fin.ofNat 16 ((0x40 + 4 * k.val - 0x40) / 4) : RingId) = k := by ext; simp
    unfold regRead
    repeat rw [if_neg (by omega)]
    rw [if_pos (by omega), hoff]
  · have hr := r.isLt
    have hoff : (Fin.ofNat 4 ((0x80 + 4 * r.val - 0x80) / 4) : RespId) = r := by ext; simp
    unfold regRead
    repeat rw [if_neg (by omega)]
    rw [if_pos (by omega), hoff]

/-- The configuration registers by their fields (R73, R165). -/
def configValue (h : HostPort) : ConfigReg → Word32
  | .ctrlBaseLo => h.ctrlBaseLo
  | .ctrlBaseHi => h.ctrlBaseHi
  | .ctrlSize => h.ctrlSize.setWidth 32
  | .resp0BaseLo => h.resp0BaseLo
  | .resp0BaseHi => h.resp0BaseHi
  | .resp0Size => h.resp0Size.setWidth 32
  | .resp0Mod => h.resp0Mod

theorem regRead_configOffset (reg : ConfigReg) : regRead s (configOffset reg) = configValue s.host reg := by
  cases reg <;> rfl

theorem configValue_storeConfig (reg other : ConfigReg) (v : Word32) (h : HostPort) :
    configValue (storeConfig reg v h) other = if other = reg then configStored reg v else configValue h other := by
  have hlow : (v.setWidth 8).setWidth 32 = v &&& 0xFF#32 := BitVec.eq_of_toNat_eq (by
    have := Nat.and_two_pow_sub_one_eq_mod v.toNat 8
    simp at this ⊢
    omega)
  cases reg <;> cases other <;> simp [configValue, storeConfig, configStored, hlow]

/-- Settles O14: a configuration register's write stores its field; an ignored write has no row of `writeWindow`. -/
theorem windowWrites : Obligations.WindowWrites := by
  refine fun s v hup => ⟨fun reg => ?_, ?_, fun offset width h => ?_⟩
  · refine ⟨_, if_pos hup, onlyIn_settleIdle s ?_, ?_⟩
    · unfold writeConfig
      split
      · exact onlyIn_setHost s _
      · exact onlyIn_refl s _
    · simp only [regRead_configOffset]
      have hvalue : ∀ other t, configValue (settleIdle t).host other = configValue t.host other := by
        intro other t; cases other <;> simp [configValue]
      simp only [hvalue, settleIdle_hostFields]
      unfold writeConfig
      split
      · next hoff =>
        refine ⟨?_, ?_, ?_, fun other => by simp [configValue_storeConfig, hoff]⟩
        all_goals cases reg <;> rfl
      · next hon => exact ⟨rfl, rfl, rfl, fun other => by simp [hon]⟩
  · refine ⟨_, if_pos hup, onlyIn_settleIdle s (onlyIn_setHost s _), by simp [writeIdleDelay], ?_, fun other => ?_⟩
    · have hlow : (v.setWidth 16).setWidth 32 = v &&& 0xFFFF#32 := BitVec.eq_of_toNat_eq (by
        have := Nat.and_two_pow_sub_one_eq_mod v.toNat 16
        simp at this ⊢
        omega)
      simpa [regRead, writeIdleDelay] using hlow
    · rw [regRead_configOffset, regRead_configOffset]
      cases other <;> simp [configValue, writeIdleDelay]
  · by_cases hw : width = .word
    · obtain ⟨h4, hign⟩ := h.resolve_left (by simp [hw])
      have hnone : writeWindow offset.toNat v s = s := by
        simp only [writeIgnored, Bool.or_eq_true, Bool.and_eq_true, decide_eq_true_eq, beq_iff_eq, bne_iff_ne] at hign
        have := offset.isLt
        unfold writeWindow
        repeat rw [if_neg (by omega)]
      refine ⟨settleIdle s, ?_, onlyIn_settleIdle s (onlyIn_refl s _)⟩
      simp [exec, execRegisterWrite, hup, hw, hnone, took_eq]
    · exact ⟨s, by simp [exec, execRegisterWrite, hup, hw, notDue], onlyIn_refl s _⟩

end Sys2Proof.Machine

/-! PROOF. The resets and ENABLE (R40, R62, R155, R164, R165, R168 to R174, R177). -/

namespace Sys2Proof.Machine

variable (s : State)

/-! ### The resets -/

theorem reads_orphaned (reads : List HostRead) : ∀ x ∈ orphanReads reads, x.requester = .nobody := by
  intro x hx
  obtain ⟨y, -, rfl⟩ := List.mem_map.1 hx
  rfl

/-- A DISABLED, settled state stays AWAKE. -/
theorem settleIdle_of_off {t : State} (hq : t.host.quiesce = .awake) (he : t.host.enable ≠ .on) : settleIdle t = t := by
  refine (settled_iff t).2 ⟨fun _ hi => ?_, fun d p e => by rw [hq] at e; cases e⟩
  exact absurd ((idle_iff t).1 hi).1 he

theorem ringsCleared_of {t : State} (h : t.fetcher = RingFetcher.reset) : RingsCleared t := by
  refine ⟨fun k => ?_, fun p => ?_, ?_⟩
  · simp [State.ring, h, RingFetcher.reset]
  · simp [h, RingFetcher.reset]
  · simp [h, RingFetcher.reset]

theorem contextsCleared_of {t : State} (h : t.sched = Scheduler.reset) (hm : t.movers = Table.fill 4 none)
    (hp : t.parkTimer = []) : ContextsCleared t := by
  refine ⟨fun c => ?_, ?_, fun m => ?_, hp⟩
  · simp [State.ctx, h, Scheduler.reset]
  · simp [h, Scheduler.reset]
  · simp [State.mover, hm]

theorem responsesCleared_of {t : State} (h : t.resp = ResponseUnit.reset) : ResponsesCleared t := by
  refine ⟨fun r => ?_, ?_, fun r => ?_⟩
  · simp [State.respRing, h, ResponseUnit.reset]
  · simp [h, ResponseUnit.reset]
  · simp [h, ResponseUnit.reset]

theorem configValue_reset (h : HostPort) (hl : h.ctrlBaseLo = 0) (hh : h.ctrlBaseHi = 0) (hs : h.ctrlSize = 0)
    (rl : h.resp0BaseLo = 0) (rh : h.resp0BaseHi = 0) (rs : h.resp0Size = 0) (rm : h.resp0Mod = 0) (reg : ConfigReg) :
    configValue h reg = 0 := by
  cases reg <;> simp [configValue, *]

/-- A power-on or pin reset leaves an AWAKE part with ENABLE 0. -/
theorem settleIdle_powerReset (cause : ResetCause) : settleIdle (powerReset cause s) = powerReset cause s :=
  settleIdle_of_off rfl (by simp [powerReset, HostPort.reset])

/-- What a power-on or pin reset leaves. -/
theorem powerReset_cleared (cause : ResetCause) : ∃ t, t = powerReset cause s ∧ (∀ n, t.line n = Line.freeLine) ∧
    RingsCleared t ∧ ContextsCleared t ∧ ResponsesCleared t ∧ (∀ reg, regRead t (configOffset reg) = 0) ∧
    (∀ r, (t.host.vectors.get r).addr = 0 ∧ (t.host.vectors.get r).data = 0 ∧ (t.host.vectors.get r).pending = false) ∧
    ∀ x ∈ t.host.reads, x.requester = .nobody := by
  refine ⟨_, rfl, fun n => by simp [powerReset, State.reset, State.line], ringsCleared_of rfl, contextsCleared_of rfl rfl rfl,
    responsesCleared_of rfl, fun reg => ?_, fun r => ?_, fun x hx => ?_⟩
  · rw [regRead_configOffset]
    exact configValue_reset _ rfl rfl rfl rfl rfl rfl rfl reg
  · simp [powerReset, HostPort.reset, MsgVector.cleared]
  · obtain ⟨y, hy, rfl⟩ := List.mem_map.1 hx
    exact reads_orphaned _ y hy

/-- Settles O9: both resets leave the reset state but for the link's own. -/
theorem powerAndPinReset : Obligations.PowerAndPinReset := by
  intro s c cause hc
  obtain ⟨t, ht, hlines, hrings, hctxs, hresp, hregs, hvec, hreads⟩ := powerReset_cleared s cause
  refine ⟨t, ?_, hlines, hrings, hctxs, hresp, ?_⟩
  · rcases hc with ⟨rfl, rfl⟩ | ⟨rfl, rfl⟩ <;> rw [ht]
    · exact congrArg Host.Outcome.next (settleIdle_powerReset s _)
    · exact congrArg Host.Outcome.next (settleIdle_powerReset s _)
  · subst ht
    exact ⟨rfl, rfl, rfl, rfl, rfl, rfl, rfl, rfl, rfl, rfl, rfl, rfl, rfl, rfl, rfl, rfl, hregs, rfl, rfl, rfl, hvec,
      hreads, rfl, rfl⟩

/-- A function reset retains the lines as R19 and R174 say. -/
theorem linesRetained_functionReset (cause : ResetCause) : LinesRetained s (functionReset cause s) := by
  intro n
  rw [functionReset_line]
  split
  · next h => rw [resetLine_of_opened h]; rfl
  · next h => exact resetLine_of_not_opened h

theorem storeRetained_functionReset (cause : ResetCause) : StoreRetained s (functionReset cause s) :=
  ⟨rfl, rfl, rfl, rfl, rfl, rfl, rfl, rfl, rfl, rfl, rfl⟩

end Sys2Proof.Machine

namespace Sys2Proof
open Machine

/-- Settles O10: a link reset is a function reset with a cleared Host Port. -/
theorem linkReset : Obligations.LinkReset := by
  intro s lost
  have hset : settleIdle (Machine.linkReset lost s) = Machine.linkReset lost s := settleIdle_of_off rfl (by simp [Machine.linkReset, HostPort.reset])
  refine ⟨Machine.linkReset lost s, congrArg Host.Outcome.next hset, linesRetained_functionReset s .link,
    storeRetained_functionReset s .link, ringsCleared_of rfl, contextsCleared_of rfl rfl rfl, responsesCleared_of rfl,
    rfl, rfl, rfl, rfl, rfl, fun reg => ?_, rfl, rfl, rfl, fun r => ?_, reads_orphaned _, fun h => ?_, rfl, rfl, rfl⟩
  · rw [regRead_configOffset]
    exact configValue_reset _ rfl rfl rfl rfl rfl rfl rfl reg
  · simp [Machine.linkReset, HostPort.reset, MsgVector.cleared]
  · simp [Machine.linkReset, h]

end Sys2Proof

namespace Sys2Proof.Machine

variable (s : State)

/-! ### ENABLE -/

/-- The bit a CONTROL write carries. -/
theorem bit_set (upper : BitVec 31) : (upper ++ 1#1).getLsbD 0 = true := by
  rw [BitVec.getLsbD_append]; rfl

theorem bit_clear (upper : BitVec 31) : (upper ++ 0#1).getLsbD 0 = false := by
  rw [BitVec.getLsbD_append]; rfl

theorem exec_enableSet {s : State} (upper : BitVec 31) (h : s.host.linkUp = true) :
    exec (.enableSet upper) s = took (writeEnable true s) := by
  simp only [exec, execEnableSet, h, if_true, bit_set]

theorem exec_enableClear {s : State} (upper : BitVec 31) (h : s.host.linkUp = true) :
    exec (.enableClear upper) s = took (writeEnable false s) := by
  simp only [exec, execEnableClear, h, if_true, bit_clear]

/-- What a wake leaves of the Host Port (R177). -/
@[simp] theorem quietWake_hostFields :
    (quietWake s).host.enable = s.host.enable ∧ (quietWake s).host.configError = s.host.configError ∧
      (quietWake s).host.idleDelay = s.host.idleDelay ∧ (quietWake s).host.resetCause = s.host.resetCause ∧
      (quietWake s).host.writeQ = s.host.writeQ ∧ (quietWake s).host.msgEnable = s.host.msgEnable ∧
      (quietWake s).host.vectors = s.host.vectors ∧ (quietWake s).host.reads = s.host.reads ∧
      (quietWake s).host.linkUp = s.host.linkUp ∧ configOk (quietWake s).host = configOk s.host ∧
      ∀ k, configValue (quietWake s).host k = configValue s.host k := by
  rw [quietWake_host]
  exact ⟨rfl, rfl, rfl, rfl, rfl, rfl, rfl, rfl, rfl, rfl, fun k => by cases k <;> rfl⟩

/-- A wake leaves the configuration registers as they are (R177). -/
theorem quietWake_registers :
    (quietWake s).host.ctrlBaseLo = s.host.ctrlBaseLo ∧ (quietWake s).host.ctrlBaseHi = s.host.ctrlBaseHi ∧
      (quietWake s).host.ctrlSize = s.host.ctrlSize ∧ (quietWake s).host.resp0BaseLo = s.host.resp0BaseLo ∧
      (quietWake s).host.resp0BaseHi = s.host.resp0BaseHi ∧ (quietWake s).host.resp0Size = s.host.resp0Size ∧
      (quietWake s).host.resp0Mod = s.host.resp0Mod := by
  rw [quietWake_host]
  exact ⟨rfl, rfl, rfl, rfl, rfl, rfl, rfl⟩

/-- Settles O13: a CONTROL write reads bit 0 only; one that leaves ENABLE is a wake. -/
theorem controlWriteWakes : Obligations.ControlWriteWakes := by
  refine ⟨fun s v upper => ?_, fun s v hup h => ?_⟩
  · cases hb : v.getLsbD 0 with
    | true => simp only [if_true, exec, execControlWrite, execEnableSet, hb, bit_set]
    | false => simp only [Bool.false_eq_true, if_false, exec, execControlWrite, execEnableClear, hb, bit_clear]
  · have hwake : writeEnable (v.getLsbD 0) s = quietWake s := by
      unfold writeEnable
      have hen := (quietWake_hostFields s).1
      rcases h with ⟨hb, hoff⟩ | ⟨hb, hon⟩
      · simp only [hen, hb, hoff]
      · cases he : s.host.enable with
        | off => exact absurd he hon
        | held => simp only [hen, hb, he]
        | on => simp only [hen, hb, he]
    refine ⟨settleIdle (quietWake s), ?_, onlyIn_settleIdle s (onlyIn_quietWake s), ?_, ?_⟩
    · simp only [exec, execControlWrite, hup, if_true, hwake, took_eq]
    · simpa using quietWake_store s
    · rw [isQuiet_settleIdle, isQuiet_quietWake]

/-- Settles O11: by the value of ENABLE, behind the wake. -/
theorem enableClear : Obligations.EnableClear := by
  intro s upper hup
  obtain ⟨hen, herr, hdelay, hcause, hq, hmsg, hvec, hreads, -, -, hcfg⟩ := quietWake_hostFields s
  have hstore := quietWake_store s
  refine ⟨settleIdle (writeEnable false s), exec_enableClear upper hup, ?_⟩
  have hcfgs : ∀ t reg, regRead (settleIdle t) (configOffset reg) = configValue t.host reg := by
    intro t reg; rw [regRead_configOffset]; cases reg <;> simp [configValue]
  simp only [hcfgs, regRead_configOffset s]
  cases he : s.host.enable with
  | off =>
    have hw : writeEnable false s = quietWake s := by simp only [writeEnable, hen, he]
    rw [hw]
    refine ⟨by simp [he], by simp, by simp, by simp, by simp, hcfg, by simp, by simp, by simp, ?_⟩
    rw [if_neg (by simp)]
    refine ⟨onlyIn_settleIdle s ((onlyIn_quietWake s).mono (by simp)), by simp, by simp, by simp, ?_⟩
    simp only [settleIdle_frame, hstore]
    split <;> rfl
  | held =>
    have hw : writeEnable false s = (quietWake s).setHost { (quietWake s).host with enable := .off } := by
      simp only [writeEnable, hen, he]
    rw [hw]
    refine ⟨by simp, by simp, by simp, by simp, by simp, fun reg => ?_, by simp, by simp, by simp, ?_⟩
    · rw [← hcfg reg]; cases reg <;> rfl
    rw [if_neg (by simp)]
    refine ⟨onlyIn_settleIdle s (((onlyIn_quietWake s).mono (by simp)).trans ((onlyIn_setHost _ _).mono (by simp))),
      by simp, by simp, by simp, ?_⟩
    simp only [settleIdle_frame, State.setHost_store, hstore]
    split <;> rfl
  | on =>
    have hw : writeEnable false s = functionReset .function (quietWake s) := by
      simp only [writeEnable, hen, he]
    have hset : settleIdle (functionReset .function (quietWake s)) = functionReset .function (quietWake s) :=
      settleIdle_of_off rfl (by simp [functionReset, resetHost])
    rw [hw, hset, if_pos rfl]
    have hline : ∀ n, (quietWake s).line n = s.line n := fun n => by simp [State.line]
    have hmoving : ∀ n, movingFrames n (quietWake s) = movingFrames n s := fun n => by
      simp [movingFrames, State.line, State.inPhase, State.ctx]; rfl
    refine ⟨rfl, by simp [functionReset], by simp [functionReset], by simp [functionReset], hdelay, fun reg => ?_, herr, hq,
      hmsg, ?_, ?_, ringsCleared_of rfl, contextsCleared_of rfl rfl rfl, responsesCleared_of rfl, rfl, rfl, fun r => ?_,
      reads_orphaned _⟩
    · rw [← hcfg reg]; cases reg <;> rfl
    · intro n
      have := linesRetained_functionReset (quietWake s) .function n
      rwa [hline, hmoving] at this
    · obtain ⟨g1, g2, g3, g4, g5, g6, g7, g8, g9, g10, g11⟩ := storeRetained_functionReset (quietWake s) .function
      rw [hstore] at g1 g2 g3 g4 g5 g6 g7 g10 g11
      refine ⟨g1.trans ?_, g2.trans ?_, g3.trans ?_, g4.trans ?_, g5.trans ?_, g6.trans ?_, g7.trans ?_, g8, g9, g10.trans ?_,
        g11.trans ?_⟩
      iterate 7 · split <;> rfl
      · by_cases hp : s.store.power = .selfRefresh <;> by_cases hqt : isQuiet s = true <;> simp [hp, hqt]
      · rw [show (quietWake s).lines = s.lines by simp]
        split <;> rfl
    · simp [functionReset, resetHost]

/-- The configuration check (R165). -/
theorem configOk_iff (h : HostPort) : configOk h = true ↔ 4 ≤ h.ctrlSize.toNat ∧ h.ctrlSize.toNat ≤ 12 ∧
    4 ≤ h.resp0Size.toNat ∧ h.resp0Size.toNat ≤ 13 ∧ h.ctrlBaseLo.toNat % 64 = 0 ∧ h.resp0BaseLo.toNat % 64 = 0 := by
  simp [configOk, and_assoc]

/-- Response ring 0 as the registers give it (R144, R165). -/
theorem responseRing0_eq (h : HostPort) : responseRing0 h =
    { state := .active, base := (h.resp0BaseHi ++ h.resp0BaseLo : BitVec 64), size := 2 ^ h.resp0Size.toNat, fill := 0,
      phase := true, release := 0, unreleased := 0, intOn := decide ((h.resp0Mod.toNat / 256) % 256 = 1),
      modCount := max 1 (h.resp0Mod.toNat % 256), modTime := h.resp0Mod.toNat / 65536, unsignalled := 0, oldest := none,
      fault := none } := by
  have hlt := h.resp0Mod.isLt
  have h8 : (h.resp0Mod.extractLsb' 8 8).toNat = (h.resp0Mod.toNat / 256) % 256 := by
    rw [BitVec.extractLsb'_toNat, Nat.shiftRight_eq_div_pow]
  have h0 : (h.resp0Mod.extractLsb' 0 8).toNat = h.resp0Mod.toNat % 256 := by
    rw [BitVec.extractLsb'_toNat, Nat.shiftRight_eq_div_pow, Nat.pow_zero, Nat.div_one]
  have h16 : (h.resp0Mod.extractLsb' 16 16).toNat = h.resp0Mod.toNat / 65536 := by
    rw [BitVec.extractLsb'_toNat, Nat.shiftRight_eq_div_pow]; omega
  simp only [responseRing0, RespRing.absentRing, h8, h0, h16, baseOf]
  rfl

/-- Settles O12: by the configuration check and the store's state. -/
theorem enableSet : Obligations.EnableSet := by
  intro s upper hup hoff
  obtain ⟨hen, -, -, -, -, -, -, -, -, hok, -⟩ := quietWake_hostFields s
  have hcheck := configOk_iff s.host
  rw [← hok] at hcheck
  have hwake := (onlyIn_quietWake s).mono (bs := [.hostPort, .ringFetcher, .responseUnit, .storeController]) (by simp)
  have hstore : (quietWake s).store.state = s.store.state ∧ (quietWake s).store.faultPending = s.store.faultPending := by
    rw [quietWake_store]; split <;> exact ⟨rfl, rfl⟩
  have hring : ∀ k, (quietWake s).ring k = s.ring k := fun k => by simp [State.ring]
  have hresp : ∀ r, (quietWake s).respRing r = s.respRing r := fun r => by simp [State.respRing]
  refine ⟨settleIdle (writeEnable true s), exec_enableSet upper hup, ?_⟩
  simp only [settleIdle_ring, settleIdle_respRing, settleIdle_frame, settleIdle_hostFields]
  by_cases hcfg : configOk (quietWake s).host = true
  · rw [if_pos (hcheck.1 hcfg)]
    by_cases hcal : s.store.state = .calibrating
    · have hw : writeEnable true s = (quietWake s).setHost { (quietWake s).host with enable := .held, configError := false } := by
        simp only [writeEnable, hen, hoff, hcfg, if_true, hstore.1, hcal]
      rw [hw, if_pos hcal]
      exact ⟨onlyIn_settleIdle s (hwake.trans ((onlyIn_setHost _ _).mono (by simp))), by simp, fun k _ => hring k,
        fun r _ => hresp r, rfl, rfl, by simp, by simp⟩
    · have hw : writeEnable true s = enableTakesEffect
          ((quietWake s).setHost { (quietWake s).host with enable := .held, configError := false }) := by
        simp only [writeEnable, hen, hoff, hcfg, if_true, hstore.1, hcal, if_false]
      let u := (quietWake s).setHost { (quietWake s).host with enable := .held, configError := false }
      obtain ⟨ehost, ering, eresp, estore, eposts⟩ := enableTakesEffect_values u
      rw [hw, if_neg hcal]
      have hustore : u.store = (quietWake s).store := rfl
      obtain ⟨rlo, rhi, rsize, plo, phi, psize, pmod⟩ := quietWake_registers s
      simp only [show (quietWake s).setHost { (quietWake s).host with enable := .held, configError := false } = u from rfl,
        ehost, ering, eresp, estore, eposts, hustore, hstore]
      refine ⟨onlyIn_settleIdle s (hwake.trans (((onlyIn_setHost _ _).mono (by simp)).trans (onlyIn_enableTakesEffect u))),
        ?_, fun k hk => by rw [if_neg hk]; exact hring k, fun r hr => by rw [if_neg hr]; exact hresp r, rfl, trivial, ?_, ?_, ?_, ?_⟩
      · split <;> simp
      · rw [if_pos trivial]
        have hnotice : (u.ring 0).notice = (s.ring 0).notice := by rw [← hring 0]; rfl
        simp only [controlRing, hnotice, CmdRing.disabledRing, baseOf]
        have hregs : u.host.ctrlBaseHi = s.host.ctrlBaseHi ∧ u.host.ctrlBaseLo = s.host.ctrlBaseLo ∧
            u.host.ctrlSize = s.host.ctrlSize := ⟨rhi, rlo, rsize⟩
        rw [hregs.1, hregs.2.1, hregs.2.2]
      · rw [if_pos trivial, responseRing0_eq]
        have hregs : u.host.resp0BaseHi = s.host.resp0BaseHi ∧ u.host.resp0BaseLo = s.host.resp0BaseLo ∧
            u.host.resp0Size = s.host.resp0Size ∧ u.host.resp0Mod = s.host.resp0Mod := ⟨phi, plo, psize, pmod⟩
        obtain ⟨h1, h2, h3, h4⟩ := hregs
        rw [h1, h2, h3, h4]
      · intro hf; rw [if_pos hf]
      · simp [u]
  · rw [if_neg fun h => hcfg (hcheck.2 h)]
    have hw : writeEnable true s = (quietWake s).setHost { (quietWake s).host with configError := true } := by
      simp only [writeEnable, hen, hoff, hcfg, Bool.false_eq_true, if_false]
    rw [hw]
    exact ⟨onlyIn_settleIdle s (hwake.trans ((onlyIn_setHost _ _).mono (by simp))), by simp, fun k _ => hring k,
      fun r _ => hresp r, rfl, by simp [hoff], by simp, by simp⟩

end Sys2Proof.Machine

/-! PROOF. Where completions go and what is posted while a command runs: most operations leave each command ring's
response ring, each response ring's state and every item already posted as they are (R55, R145). -/

namespace Sys2Proof.Machine

variable (s : State)

/-- Completions go where they went before, and nothing posted is lost. -/
structure Flows (s t : State) : Prop where
  resp : ∀ k, (t.ring k).resp = (s.ring k).resp
  active : ∀ r, (t.respRing r).state = (s.respRing r).state
  posts : s.resp.posts <+: t.resp.posts

theorem Flows.refl : Flows s s := ⟨fun _ => rfl, fun _ => rfl, List.prefix_rfl⟩

variable {s}

theorem Flows.trans {u t : State} (h : Flows s u) (h' : Flows u t) : Flows s t :=
  ⟨fun k => (h'.resp k).trans (h.resp k), fun r => (h'.active r).trans (h.active r), h.posts.trans h'.posts⟩

theorem Flows.of_same {t : State} (hf : t.fetcher.rings = s.fetcher.rings) (hr : t.resp = s.resp) : Flows s t :=
  ⟨fun k => by simp [State.ring, hf], fun r => by simp [State.respRing, hr], by rw [hr]⟩

/-- An operation that has not ended yet: its ring and its tag are as they were. -/
def SameOp (c : CtxId) (s t : State) : Prop :=
  ∀ o, s.ctx c = some o → ∃ q, t.ctx c = some q ∧ q.ring = o.ring ∧ q.tag = o.tag

theorem SameOp.of_eq {c : CtxId} {t : State} (h : t.ctx c = s.ctx c) : SameOp c s t :=
  fun o ho => ⟨o, h.trans ho, rfl, rfl⟩

theorem SameOp.trans {c : CtxId} {u t : State} (h : SameOp c s u) (h' : SameOp c u t) : SameOp c s t := by
  intro o ho
  obtain ⟨q, hq, h1, h2⟩ := h o ho
  obtain ⟨x, hx, h3, h4⟩ := h' q hq
  exact ⟨x, hx, h3.trans h1, h4.trans h2⟩

/-- The end of an operation after steps that left it and the posted items alone. -/
theorem Flows.endsWith {u : State} (h : Flows s u) {c : CtxId} (ho : SameOp c s u) (st : Status) (p a : Nat) :
    EndsWith s c ⟨st, p, a⟩ (finish c st p a u) := endsWith_finish_of c st p a ho h.resp h.active

/-- An operation that has ended has still ended after steps that left its context and the posted items alone. -/
theorem EndsWith.after {u t : State} {c : CtxId} {r : Settled} (h : EndsWith s c r u) (hf : Flows u t)
    (hc : t.ctx c = u.ctx c) : EndsWith s c r t := by
  intro o ho
  have := h o ho
  rw [hc]
  split
  · next ha =>
    rw [if_pos ha] at this
    exact ⟨this.1, hf.posts.subset this.2⟩
  · next ha => rwa [if_neg ha] at this

/-- The end of an operation seen from an earlier state that differs in nothing an end depends on. -/
theorem EndsWith.before {u t : State} {c : CtxId} {r : Settled} (h : EndsWith u c r t) (hf : Flows s u)
    (ho : SameOp c s u) : EndsWith s c r t := by
  intro o h0
  obtain ⟨q, hq, h1, h2⟩ := ho o h0
  have := h q hq
  rwa [h1, hf.resp, hf.active, h2] at this

variable (s)

/-! ### Which operations do so -/

theorem flows_setLine (n : LineId) (x : Line) : Flows s (s.setLine n x) := .of_same rfl rfl
theorem flows_setStore (x : StoreController) : Flows s (s.setStore x) := .of_same rfl rfl
theorem flows_setMover (m : MoverId) (x : Option Mover) : Flows s (s.setMover m x) := .of_same rfl rfl
theorem flows_setHost (x : HostPort) : Flows s (s.setHost x) := .of_same rfl rfl
theorem flows_setReady (l : List CtxId) : Flows s (s.setReady l) := .of_same rfl rfl
theorem flows_setParkTimer (l : List (CtxId × Nat)) : Flows s (s.setParkTimer l) := .of_same rfl rfl
theorem flows_setCtx (c : CtxId) (x : Option Operation) : Flows s (s.setCtx c x) := .of_same rfl rfl
theorem flows_modCtx (c : CtxId) (g : Operation → Operation) : Flows s (s.modCtx c g) := .of_same (by simp) (by simp)
theorem flows_setPhase (c : CtxId) (p : Phase) : Flows s (s.setPhase c p) := flows_modCtx s c _
theorem flows_makeReady (c : CtxId) : Flows s (makeReady c s) := .of_same (by simp) (by simp)
theorem flows_leaveReady (c : CtxId) : Flows s (leaveReady c s) := .of_same (by simp) (by simp)
theorem flows_activate (n : LineId) : Flows s (activate n s) := .of_same (by simp) (by simp)
theorem flows_joinQueue (n : LineId) (c : CtxId) (M : Nat) : Flows s (joinQueue n c M s) := .of_same (by simp) (by simp)
theorem flows_guardRecheck (n : LineId) : Flows s (guardRecheck n s) := .of_same (by simp) (by simp)
theorem flows_unpark (n : LineId) (c : CtxId) : Flows s (unpark n c s) := .of_same (by simp) (by simp)
theorem flows_parkOn (n : LineId) (c : CtxId) (e d : Nat) : Flows s (parkOn n c e d s) := .of_same (by simp) (by simp)
theorem flows_settleIdle : Flows s (settleIdle s) := .of_same (by simp) (by simp)
theorem flows_pump (m : MoverId) : Flows s (pump m s) := .of_same (by simp) (by simp)
theorem flows_pumpAll : Flows s (pumpAll s) := .of_same (by simp) (by simp)
theorem flows_dropItemWait : Flows s (dropItemWait s) := .of_same (by simp) (by simp)

/-- Of a ring's entry a freed context changes the window only (R54). -/
theorem freeCtx_ring (c : CtxId) (k : RingId) :
    (freeCtx c s).ring k = { s.ring k with window := ((freeCtx c s).ring k).window } := by
  unfold freeCtx
  split
  · rfl
  · next o _ =>
    by_cases h : k = o.ring
    · subst h; simp
    · simp [h]

/-- Of a ring's entry the end of an operation changes the window only (R54, R55). -/
theorem finish_ring (c : CtxId) (st : Status) (p a : Nat) (k : RingId) :
    (finish c st p a s).ring k = { s.ring k with window := ((finish c st p a s).ring k).window } := by
  unfold finish
  split
  · rfl
  · dsimp only
    split
    · simp
    · exact freeCtx_ring _ c k

/-- What the end of an operation posts (R55, R145). -/
theorem finish_posts (c : CtxId) (st : Status) (p a : Nat) :
    (finish c st p a s).resp.posts = s.resp.posts ++ (completionPost s c).toList := by
  unfold finish completionPost
  cases s.ctx c with
  | none => simp
  | some o =>
    dsimp only
    split
    · next h => simp [post_posts, h]
    · next h => simp [h]

theorem flows_post (r : RespId) (i : PostItem) : Flows s (post r i s) :=
  ⟨fun _ => by simp, fun _ => by simp, by rw [post_posts]; split <;> simp⟩

theorem flows_finish (c : CtxId) (st : Status) (p a : Nat) : Flows s (finish c st p a s) :=
  ⟨fun k => by rw [finish_ring], fun r => by simp, by rw [finish_posts]; exact List.prefix_append _ _⟩

theorem flows_applyHeld (n : LineId) : Flows s (applyHeld n s) := by
  unfold applyHeld
  dsimp only
  split
  · split
    · exact (flows_setLine s n _).trans (flows_finish _ _ _ _ _)
    · exact flows_setLine s n _
  · exact Flows.refl s

theorem flows_leaveHead (n : LineId) : Flows s (leaveHead n s) :=
  ((flows_setLine s n _).trans (flows_applyHeld _ n)).trans (flows_activate _ n)

theorem flows_drainTest (n : LineId) : Flows s (drainTest n s) := by
  unfold drainTest
  dsimp only
  split
  · split
    · exact ((flows_setStore s _).trans (flows_setLine _ n _)).trans (flows_finish _ _ _ _ _)
    · exact (flows_setStore s _).trans (flows_setLine _ n _)
  · exact Flows.refl s

theorem flows_removePin (n : LineId) (c : CtxId) : Flows s (removePin n c s) :=
  ((flows_setLine s n _).trans (flows_guardRecheck _ n)).trans (flows_drainTest _ n)

theorem flows_foldl {α : Type} {f : State → α → State} (h : ∀ t x, Flows t (f t x)) (l : List α) :
    Flows s (l.foldl f s) := by
  induction l generalizing s with
  | nil => exact Flows.refl s
  | cons x l ih => exact (h s x).trans (ih _)

theorem flows_removePins (ns : List LineId) (c : CtxId) : Flows s (removePins ns c s) :=
  flows_foldl s (fun t n => flows_removePin t n c) ns

theorem flows_wakeRead (n : LineId) (c : CtxId) : Flows s (wakeRead n c s) := by
  unfold wakeRead
  split
  · exact Flows.refl s
  · split
    · split
      · exact flows_finish s _ _ _ _
      · exact flows_makeReady s c
    · exact flows_setCtx s _ _
    · exact Flows.refl s

theorem flows_raiseLap (n : LineId) : Flows s (raiseLap n s) := by
  unfold raiseLap
  dsimp only
  split
  · exact (flows_setLine s n _).trans (flows_post _ _ _)
  · exact Flows.refl s

/-! ### The contexts they change -/

theorem modCtx_ctx (c d : CtxId) (g : Operation → Operation) :
    (s.modCtx c g).ctx d = if d = c then (s.ctx c).map g else s.ctx d := by
  unfold State.modCtx
  cases h : s.ctx c with
  | none => split <;> simp_all
  | some o =>
    by_cases hd : d = c
    · subst hd; simp
    · simp [hd]

theorem modCtx_ctx_same (c : CtxId) (g : Operation → Operation) : (s.modCtx c g).ctx c = (s.ctx c).map g := by
  rw [modCtx_ctx, if_pos rfl]

theorem modCtx_ctx_other {c d : CtxId} (g : Operation → Operation) (h : d ≠ c) : (s.modCtx c g).ctx d = s.ctx d := by
  rw [modCtx_ctx, if_neg h]

theorem setPhase_ctx (c d : CtxId) (p : Phase) :
    (s.setPhase c p).ctx d = if d = c then (s.ctx c).map fun o => { o with phase := p } else s.ctx d := modCtx_ctx s c d _

theorem makeReady_ctx (c d : CtxId) :
    (makeReady c s).ctx d = if d = c then (s.ctx c).map fun o => { o with phase := .ready } else s.ctx d :=
  setPhase_ctx s c d .ready

@[simp] theorem makeReady_ready (c : CtxId) : (makeReady c s).sched.ready = s.sched.ready ++ [c] := rfl

@[simp] theorem leaveReady_ready (c : CtxId) : (leaveReady c s).sched.ready = s.sched.ready.filter (· ≠ c) := rfl

@[simp] theorem leaveReady_ctx (c d : CtxId) : (leaveReady c s).ctx d = s.ctx d := rfl

/-- Where a context's phase is read. -/
theorem inPhase_iff (c : CtxId) (p : Phase) : s.inPhase c p = true ↔ ∃ o, s.ctx c = some o ∧ o.phase = p := by
  unfold State.inPhase
  cases s.ctx c <;> simp

theorem inPhase_of {c : CtxId} {o : Operation} (h : s.ctx c = some o) (p : Phase) :
    s.inPhase c p = decide (o.phase = p) := by
  rw [Bool.eq_iff_iff, inPhase_iff]
  simp [h]

theorem inPhase_congr {t : State} {c : CtxId} (h : t.ctx c = s.ctx c) (p : Phase) : t.inPhase c p = s.inPhase c p := by
  simp [State.inPhase, h]

theorem sameOp_modCtx (c d : CtxId) {g : Operation → Operation} (h1 : ∀ o, (g o).ring = o.ring) (h2 : ∀ o, (g o).tag = o.tag) :
    SameOp d s (s.modCtx c g) := by
  intro o ho
  rw [modCtx_ctx]
  split
  · next h => subst h; exact ⟨g o, by simp [ho], h1 o, h2 o⟩
  · exact ⟨o, ho, rfl, rfl⟩

theorem sameOp_setPhase (c d : CtxId) (p : Phase) : SameOp d s (s.setPhase c p) :=
  sameOp_modCtx s c d (fun _ => rfl) (fun _ => rfl)

theorem sameOp_makeReady (c d : CtxId) : SameOp d s (makeReady c s) := sameOp_setPhase s c d .ready

/-- The writer at the head of a queue takes the phase the guard check gives it (R9, R77). -/
theorem activate_cons {n : LineId} {x : Writer} {xs : List Writer} (h : (s.line n).writers = x :: xs) :
    activate n s = if nextPhase (s.line n) = .ready then makeReady x.ctx s else s.setPhase x.ctx .guardWait := by
  unfold activate nextPhase
  rw [h]
  dsimp only
  by_cases hg : (s.line n).policy = .guarded ∧ guardPasses (s.line n) = false
  · simp [hg]
  · simp [hg]

theorem activate_nil {n : LineId} (h : (s.line n).writers = []) : activate n s = s := by
  unfold activate
  rw [h]

/-- Whom an activation makes READY (R77, R157). -/
theorem activate_ready (n : LineId) : (activate n s).sched.ready = s.sched.ready ++ nextReady (s.line n) := by
  unfold nextReady
  cases h : (s.line n).writers with
  | nil => rw [activate_nil s h]; simp
  | cons x xs =>
    rw [activate_cons s h]
    dsimp only
    split <;> simp

/-- Of the contexts an activation changes the head writer's phase only (R77). -/
theorem activate_ctx (n : LineId) (d : CtxId) : (activate n s).ctx d =
    if (s.line n).writers.head?.map Writer.ctx = some d then (s.ctx d).map fun o => { o with phase := nextPhase (s.line n) }
    else s.ctx d := by
  cases h : (s.line n).writers with
  | nil => rw [activate_nil s h]; simp
  | cons x xs =>
    rw [activate_cons s h]
    simp only [List.head?_cons, Option.map_some, Option.some.injEq]
    have hp : nextPhase (s.line n) = .ready ∨ nextPhase (s.line n) = .guardWait := by unfold nextPhase; split <;> simp
    rcases hp with hp | hp
    · rw [if_pos hp, makeReady_ctx, hp]
      by_cases hd : d = x.ctx
      · subst hd; simp
      · simp [hd, Ne.symm hd]
    · rw [if_neg (by simp [hp]), setPhase_ctx, hp]
      by_cases hd : d = x.ctx
      · subst hd; simp
      · simp [hd, Ne.symm hd]

theorem sameOp_activate (n : LineId) (d : CtxId) : SameOp d s (activate n s) := by
  intro o ho
  rw [activate_ctx]
  split
  · exact ⟨{ o with phase := nextPhase (s.line n) }, by rw [ho]; rfl, rfl, rfl⟩
  · exact ⟨o, ho, rfl, rfl⟩

/-- A held change that takes hold ends its SET_LINE and touches no other context (R15). -/
theorem applyHeld_ctx {n : LineId} {d : CtxId} (h : d ≠ 0 ∨ holdsSetLine n s = false) :
    (applyHeld n s).ctx d = s.ctx d := by
  unfold applyHeld
  dsimp only
  split
  · split
    · next hs =>
      have hd : d ≠ 0 := h.resolve_right (by simp [hs])
      rw [finish_other _ _ _ _ hd]; simp
    · simp
  · rfl

/-- The drain test ends the line's CLOSE_LINE and touches no other context (R132). -/
theorem drainTest_ctx {n : LineId} {d : CtxId} (h : d ≠ 0 ∨ holdsCloseLine n s = false) :
    (drainTest n s).ctx d = s.ctx d := by
  unfold drainTest
  dsimp only
  split
  · split
    · next hs =>
      have hd : d ≠ 0 := h.resolve_right (by simp [hs])
      rw [finish_other _ _ _ _ hd]; simp
    · simp
  · rfl

theorem holdsSetLine_iff (n : LineId) : holdsSetLine n s = true ↔
    ∃ o policy lap, s.ctx 0 = some o ∧ o.body = some (.setLine n policy lap) ∧ o.phase = .acting := by
  unfold holdsSetLine
  cases s.ctx 0 with
  | none => simp
  | some o =>
    simp only [Option.some.injEq, exists_and_left, exists_eq_left']
    split
    · next hb =>
      simp only [hb, Bool.and_eq_true, decide_eq_true_eq, Option.some.injEq, Body.setLine.injEq]
      constructor
      · rintro ⟨rfl, hp⟩; exact ⟨_, _, ⟨rfl, rfl, rfl⟩, hp⟩
      · rintro ⟨_, _, ⟨rfl, -⟩, hp⟩; exact ⟨rfl, hp⟩
    · next hb =>
      simp only [Bool.false_eq_true, false_iff]
      rintro ⟨p, l, he, -⟩
      exact hb n p l he

theorem holdsCloseLine_iff (n : LineId) : holdsCloseLine n s = true ↔
    ∃ o, s.ctx 0 = some o ∧ o.body = some (.closeLine n) ∧ o.phase = .acting := by
  unfold holdsCloseLine
  cases s.ctx 0 <;> simp

theorem holdsSetLine_congr {t : State} (h : t.ctx 0 = s.ctx 0) (n : LineId) : holdsSetLine n t = holdsSetLine n s := by
  unfold holdsSetLine; rw [h]

theorem holdsCloseLine_congr {t : State} (h : t.ctx 0 = s.ctx 0) (n : LineId) :
    holdsCloseLine n t = holdsCloseLine n s := by
  unfold holdsCloseLine; rw [h]

/-- A guard check made again makes the head writer READY or changes nothing (R13). -/
theorem guardRecheck_ready {n : LineId} {x : Writer} {xs : List Writer} (hw : (s.line n).writers = x :: xs)
    (h : (s.line n).policy = .guarded ∧ s.inPhase x.ctx .guardWait = true ∧ guardPasses (s.line n) = true) :
    guardRecheck n s = makeReady x.ctx s := by
  unfold guardRecheck
  dsimp only
  rw [hw]
  exact if_pos h

theorem guardRecheck_not {n : LineId} (h : ∀ x xs, (s.line n).writers = x :: xs →
    ¬((s.line n).policy = .guarded ∧ s.inPhase x.ctx .guardWait = true ∧ guardPasses (s.line n) = true)) :
    guardRecheck n s = s := by
  unfold guardRecheck
  dsimp only
  cases hw : (s.line n).writers with
  | nil => rfl
  | cons x xs => exact if_neg (h x xs hw)

theorem sameOp_guardRecheck (n : LineId) (d : CtxId) : SameOp d s (guardRecheck n s) := by
  unfold guardRecheck
  dsimp only
  split
  · exact .of_eq rfl
  · split
    · exact sameOp_makeReady s _ d
    · exact .of_eq rfl

/-- A context not in GUARD_WAIT is not touched by a guard check made again (R13). -/
theorem guardRecheck_ctx {n : LineId} {d : CtxId} (h : s.inPhase d .guardWait = false) :
    (guardRecheck n s).ctx d = s.ctx d := by
  unfold guardRecheck
  dsimp only
  split
  · rfl
  · next x _ _ =>
    split
    · next hc =>
      rw [makeReady_ctx, if_neg]
      rintro rfl
      simp [h] at hc
    · rfl

end Sys2Proof.Machine

/-! PROOF. Fetch grants, the order of starts, and the writers that join a write queue (R46, R56, R75, R118). -/

namespace Sys2Proof.Machine

variable (s : State)

/-! ### An operation ends and nothing else happens -/

/-- The operation in context `c` has ended with a result, and nothing else has changed. -/
structure OnlyEnds (s : State) (c : CtxId) (r : Settled) (t : State) : Prop where
  only : OnlyIn [.ringFetcher, .scheduler, .responseUnit] s t
  ends : EndsWith s c r t
  others : ∀ d, d ≠ c → t.ctx d = s.ctx d
  ready : t.sched.ready = s.sched.ready

variable {s}

theorem OnlyEnds.lines {c : CtxId} {r : Settled} {t : State} (h : OnlyEnds s c r t) : t.lines = s.lines :=
  h.only.2.2 .lineTable (by simp)

theorem OnlyEnds.line {c : CtxId} {r : Settled} {t : State} (h : OnlyEnds s c r t) (n : LineId) : t.line n = s.line n :=
  line_congr h.lines n

theorem OnlyEnds.parkTimer {c : CtxId} {r : Settled} {t : State} (h : OnlyEnds s c r t) : t.parkTimer = s.parkTimer :=
  h.only.2.2 .parkTimer (by simp)

theorem OnlyEnds.movers {c : CtxId} {r : Settled} {t : State} (h : OnlyEnds s c r t) : t.movers = s.movers :=
  h.only.2.2 .movers (by simp)

theorem OnlyEnds.store {c : CtxId} {r : Settled} {t : State} (h : OnlyEnds s c r t) : t.store = s.store :=
  h.only.2.2 .storeController (by simp)

variable (s)

theorem onlyEnds_finish (c : CtxId) (st : Status) (p a : Nat) :
    OnlyEnds s c ⟨st, p, a⟩ (settleIdle (finish c st p a s)) where
  only := onlyIn_settleIdle s ((onlyIn_finish s c st p a).mono (by simp))
  ends := endsWith_settleIdle s (endsWith_finish s c st p a)
  others d hd := by rw [settleIdle_ctx, finish_other s st p a hd]
  ready := by simp

/-! ### Fetch grants -/

/-- The context a fetch reserves (R53). -/
theorem freeContext_spec {k : RingId} {c : CtxId} (h : freeContext k s = some c) : s.ctx c = none ∧ (c = 0 ↔ k = 0) := by
  unfold freeContext at h
  split at h
  · next hk =>
    split at h
    · next hn => cases h; exact ⟨by simpa using hn, by simp [hk]⟩
    · cases h
  · next hk =>
    have := List.find?_some h
    simp only [Bool.and_eq_true, decide_eq_true_eq, Option.isNone_iff_eq_none] at this
    exact ⟨this.2, by simp [this.1, hk]⟩

/-- A read asked for, whole (R160, R161). -/
theorem askRead_reads (w : Requester) (a : HostAddr) (len : Nat) : (askRead w a len s).host =
    { s.host with
      reads := s.host.reads ++ [⟨s.host.nextRead, w, a, len,
        if s.host.linkUp = true ∧ s.host.permitted = true then some s.now else none⟩]
      nextRead := s.host.nextRead + 1 } := by
  unfold askRead canIssue
  dsimp only
  by_cases hp : s.host.linkUp = true ∧ s.host.permitted = true <;> simp [hp]

/-- Settles O27: the granted ring is eligible, so a context is free. -/
theorem fetchGrant : Obligations.FetchGrant := by
  intro s k level hg
  have he := eligible_of_granted s hg
  obtain ⟨-, -, -, -, hfree, -⟩ := (eligible_iff s k).1 he
  obtain ⟨c, hc⟩ := Option.isSome_iff_exists.1 ((freeContext_isSome_iff s k).2 hfree)
  let last := match level with
    | none => s.fetcher.lastGrant
    | some p => s.fetcher.lastGrant.set p k.val
  let u : State := { s with fetcher := { s.fetcher with lastGrant := last, fetch := some ⟨k, c, none⟩ } }
  have hu : OnlyIn [.hostPort, .ringFetcher] s u := ⟨rfl, rfl, fun b hb => by cases b <;> simp_all [Same, u]⟩
  obtain ⟨hnone, hzero⟩ := freeContext_spec s hc
  refine ⟨settleIdle (askRead .fetch (slotAddr (s.ring k) (s.ring k).take) 64 u), c, ?_,
    onlyIn_settleIdle s (hu.trans ((onlyIn_askRead u _ _ _).mono (by simp))), hnone, hzero, ?_, ?_, fun p => ?_, ?_, ?_⟩
  · simp only [exec, execFetchGrant, hg, hc]
    rfl
  · simp [u]
  · simp [u]
  · simp only [settleIdle_frame, askRead_frame, u, last]
    cases level with
    | none => simp
    | some q => simp [Table.get_set, eq_comm]
  · simp only [settleIdle_hostFields, askRead_reads]
    rfl
  · simp only [settleIdle_hostFields, askRead_reads]
    rfl

/-! ### The order of starts -/

theorem takeWhile_before {before after : List CtxId} {c : CtxId} (h : c ∉ before) :
    (before ++ c :: after).takeWhile (· ≠ c) = before := by
  rw [List.takeWhile_append_of_pos (by intro x hx; simp; rintro rfl; exact h hx)]
  simp

theorem uncommittedWriter_iff (ns : List LineId) (d : CtxId) : uncommittedWriter ns s d = true ↔
    ∃ q r n, s.ctx d = some q ∧ q.body = some r ∧ destOf r = some n ∧ n ∈ ns ∧ q.phase ≠ .waiting ∧ q.phase ≠ .done := by
  unfold uncommittedWriter
  cases hq : s.ctx d with
  | none => simp
  | some q =>
    cases hb : q.body with
    | none => simp [hb]
    | some r =>
      cases hn : destOf r with
      | none => simp [hb, hn]
      | some n => simp [hb, hn]; tauto

/-- The record of a ring that starts next is the first that waits, if it may start (R56). -/
theorem nextStart_eq_some_iff (k : RingId) (c : CtxId) (b : Body) : nextStart k s = some (c, b) ↔
    ∃ o, (s.ring k).window.find? (fun d => s.inPhase d .waiting) = some c ∧ s.ctx c = some o ∧ o.body = some b ∧
      mayStart k c o.fence b s = true := by
  constructor
  · intro h
    unfold nextStart at h
    split at h
    · cases h
    next d hf =>
    split at h
    · cases h
    next o ho =>
    split at h
    · cases h
    next r hr =>
    split at h
    · next hm =>
      cases h
      exact ⟨o, hf, ho, hr, hm⟩
    · cases h
  · rintro ⟨o, hf, ho, hb, hm⟩
    simp only [nextStart, hf, ho, hb, hm, if_true]

/-- Settles O31: the three conditions of R56. -/
theorem startOrder : Obligations.StartOrder := by
  intro s k before after c o b hw hc ho hb hp
  have hwait : s.inPhase c .waiting = true := (inPhase_iff s c _).2 ⟨o, ho, hp⟩
  have htaken : takenBefore k c s = before := by rw [takenBefore, hw, takeWhile_before hc]
  have hfirst : (s.ring k).window.find? (fun d => s.inPhase d .waiting) = some c ↔
      ∀ d ∈ before, s.inPhase d .waiting = false := by
    rw [hw, List.find?_eq_some_iff_append]
    constructor
    · rintro ⟨-, as, bs, he, hbefore⟩ d hd
      have has : as = before := by
        have hcas : c ∉ as := fun h => by simpa [hwait] using hbefore c h
        rw [← takeWhile_before (after := bs) hcas, ← he, takeWhile_before hc]
      simpa using hbefore d (has ▸ hd)
    · exact fun h => ⟨hwait, before, after, rfl, fun d hd => by simp [h d hd]⟩
  rw [nextStart_eq_some_iff, hfirst]
  simp only [ho, Option.some.injEq, mayStart, htaken, Bool.and_eq_true, Bool.not_eq_true',
    Bool.or_eq_true]
  constructor
  · rintro ⟨q, hnone, rfl, -, hfence, hwriters⟩
    refine ⟨hnone, fun hf => by simpa [hf] using hfence, fun d hd q r n hq hr hn hmem => ?_⟩
    have hnot := (List.any_eq_false.1 hwriters) d hd
    rw [uncommittedWriter_iff] at hnot
    have hne : q.phase ≠ .waiting := by
      intro hw'
      have := hnone d hd
      rw [inPhase_of s hq] at this
      simp [hw'] at this
    by_contra hdone
    exact hnot ⟨q, r, n, hq, hr, hn, hmem, hne, hdone⟩
  · rintro ⟨hnone, hfence, hwriters⟩
    refine ⟨o, hnone, rfl, hb, ?_, ?_⟩
    · cases hf : o.fence with
      | false => exact .inl rfl
      | true => exact .inr (by simpa using hfence hf)
    · rw [List.any_eq_false]
      intro d hd h
      obtain ⟨q, r, n, hq, hr, hn, hmem, -, hdone⟩ := (uncommittedWriter_iff s _ d).1 h
      exact hdone (hwriters d hd q r n hq hr hn hmem)

/-! ### Joining a write queue -/

/-- The phase a writer takes as it joins a write queue, whose entry it makes `l` (R8, R9). -/
def joinedPhase (before l : Line) : Phase := if before.writers ≠ [] then .queued else nextPhase l

theorem joinQueue_ctx (n : LineId) (c d : CtxId) (M : Nat) : (joinQueue n c M s).ctx d =
    if d = c then (s.ctx c).map fun o => { o with phase := joinedPhase (s.line n) ((joinQueue n c M s).line n) }
    else s.ctx d := by
  rw [joinQueue_line]
  unfold joinQueue joinedPhase
  dsimp only
  cases h : (s.line n).writers with
  | nil =>
    simp only [List.isEmpty_nil, if_true, activate_ctx, State.setLine_same, List.nil_append, List.head?_cons,
      Option.map_some, Option.some.injEq, State.setLine_ctx, ne_eq, not_true_eq_false, if_false]
    by_cases hd : d = c
    · subst hd; simp
    · simp [hd, Ne.symm hd]
  | cons x xs => simp [setPhase_ctx]

theorem joinQueue_ready (n : LineId) (c : CtxId) (M : Nat) : (joinQueue n c M s).sched.ready = s.sched.ready ++
    if joinedPhase (s.line n) ((joinQueue n c M s).line n) = .ready then [c] else [] := by
  rw [joinQueue_line]
  unfold joinQueue joinedPhase
  dsimp only
  cases h : (s.line n).writers with
  | nil => simp [activate_ready, nextReady]
  | cons x xs => simp

/-- Settles O32: by R75's checks in their order. -/
theorem writerStart : Obligations.WriterStart := by
  intro s i k c b n addr M hi hstart
  have hexec : exec i s = .next (settleIdle (startWriter n c M s)) := by
    rcases hi with ⟨rfl, rfl⟩ | ⟨rfl, rfl⟩
    · simp only [exec, execDeposit, hstart, took_eq]
    · simp only [exec, execSkip, hstart, took_eq]
  refine ⟨_, hexec, ?_⟩
  have fails : ∀ st p a, startWriter n c M s = finish c st p a s →
      OnlyEnds s c ⟨st, p, a⟩ (settleIdle (startWriter n c M s)) := fun st p a h => h ▸ onlyEnds_finish s c st p a
  by_cases h1 : (s.line n).state ≠ .opened
  · have h := fails .noLine 0 0 (if_pos h1)
    rw [if_pos h1]
    exact ⟨h.only.mono (by simp), fun j _ => h.line j, h.others, h.ends, h.lines⟩
  rw [if_neg h1]
  by_cases h2 : (s.line n).cap < M
  · have h := fails .tooLong (s.line n).w (s.line n).cap ((if_neg h1).trans (if_pos h2))
    rw [if_pos h2]
    exact ⟨h.only.mono (by simp), fun j _ => h.line j, h.others, h.ends, h.lines⟩
  rw [if_neg h2]
  by_cases h3 : Config.maxPosition < joinPosition (s.line n) + M
  · have h := fails .positionLimit (joinPosition (s.line n)) M ((if_neg h1).trans ((if_neg h2).trans (if_pos h3)))
    rw [if_pos (by exact h3)]
    exact ⟨h.only.mono (by simp), fun j _ => h.line j, h.others, h.ends, h.lines⟩
  rw [if_neg (by exact h3)]
  have hu : startWriter n c M s = joinQueue n c M s := (if_neg h1).trans ((if_neg h2).trans (if_neg h3))
  rw [hu]
  refine ⟨onlyIn_settleIdle s ((onlyIn_joinQueue s n c M).mono (by simp)), fun j hj => ?_, fun d hd => ?_, ?_, ?_, ?_, ?_⟩
  · rw [settleIdle_line, joinQueue_line_other s c M hj]
  · rw [settleIdle_ctx, joinQueue_ctx, if_neg hd]
  · rw [settleIdle_line, joinQueue_line]
  · simp
  · simp
  simp only [settleIdle_ctx, settleIdle_line, settleIdle_frame, joinQueue_ctx s n c c M, joinQueue_ready, if_pos]
  have hpol : ((joinQueue n c M s).line n).policy = (s.line n).policy := by rw [joinQueue_line]
  by_cases hq : (s.line n).writers = []
  · by_cases hg : (s.line n).policy = .guarded ∧ guardPasses ((joinQueue n c M s).line n) = false
    · simp [joinedPhase, nextPhase, hq, hg, hpol]
    · simp [joinedPhase, nextPhase, hq, hg, hpol]
  · simp [joinedPhase, hq]

/-- Settles O42: the visit's checks in R118's order. -/
theorem mixJoin : Obligations.MixJoin := by
  intro s c o n addr N wait taps ho hb hs
  have hexec : exec (.mixLineVisit c) s = .next (settleIdle (joinVisit c o n N s)) := by
    simp only [exec, execMixLineVisit, ho, hb, hs, took_eq]
  refine ⟨_, hexec, ?_⟩
  have fails : ∀ st p a, joinVisit c o n N s = finish c st p a s →
      OnlyEnds s c ⟨st, p, a⟩ (settleIdle (joinVisit c o n N s)) := fun st p a h => h ▸ onlyEnds_finish s c st p a
  by_cases h1 : n ∈ o.marks ∨ (s.line n).state ≠ .opened
  · have h := fails .noLine 0 0 (if_pos h1)
    rw [if_pos h1]
    exact ⟨h.only.mono (by simp), fun j _ => h.line j, h.others, h.ends, h.lines⟩
  rw [if_neg h1]
  by_cases h2 : (s.line n).cap < N
  · have h := fails .tooLong (s.line n).w (s.line n).cap ((if_neg h1).trans (if_pos h2))
    rw [if_pos h2]
    exact ⟨h.only.mono (by simp), fun j _ => h.line j, h.others, h.ends, h.lines⟩
  rw [if_neg h2]
  by_cases h3 : Config.maxPosition < joinPosition (s.line n) + N
  · have h := fails .positionLimit (joinPosition (s.line n)) N ((if_neg h1).trans ((if_neg h2).trans (if_pos h3)))
    rw [if_pos (by exact h3)]
    exact ⟨h.only.mono (by simp), fun j _ => h.line j, h.others, h.ends, h.lines⟩
  rw [if_neg (by exact h3)]
  let u := s.modCtx c fun x => { x with stage := none }
  have hu : joinVisit c o n N s = joinQueue n c N u := (if_neg h1).trans ((if_neg h2).trans (if_neg h3))
  have huline : ∀ j, u.line j = s.line j := fun j => by simp [State.line, u]
  have huctx : ∀ d, u.ctx d = if d = c then some { o with stage := none } else s.ctx d := fun d => by
    simp [u, modCtx_ctx, ho]
  rw [hu]
  refine ⟨onlyIn_settleIdle s (((onlyIn_modCtx s c _).mono (by simp)).trans ((onlyIn_joinQueue u n c N).mono (by simp))),
    fun j hj => ?_, fun d hd => ?_, ?_, ?_, ?_, ?_, ?_⟩
  · rw [settleIdle_line, joinQueue_line_other u c N hj, huline]
  · rw [settleIdle_ctx, joinQueue_ctx, if_neg hd, huctx, if_neg hd]
  · rw [settleIdle_line, joinQueue_line, huline]
  · simp [u]
  · simp [u]
  · have hpol : ((joinQueue n c N u).line n).policy = (s.line n).policy := by rw [joinQueue_line, huline]
    rw [settleIdle_ctx, settleIdle_line, joinQueue_ctx, if_pos rfl, huctx, if_pos rfl]
    simp only [Option.map_some, joinedPhase, nextPhase, hpol, huline]
  · have hpol : ((joinQueue n c N u).line n).policy = (s.line n).policy := by rw [joinQueue_line, huline]
    simp only [settleIdle_frame, settleIdle_line, joinQueue_ready, joinedPhase, nextPhase, hpol, huline]
    rw [show u.sched.ready = s.sched.ready by simp [u]]
    by_cases hq : (s.line n).writers = []
    · by_cases hg : (s.line n).policy = .guarded ∧ guardPasses ((joinQueue n c N u).line n) = false <;> simp [hq, hg]
    · simp [hq]

end Sys2Proof.Machine

/-! PROOF. The passes of a read up to its park or its READY: the start of a TAP, the shape, placement and wake passes of
a MIX (R91 to R95, R112 to R116). -/

namespace Sys2Proof.Machine

variable {s : State}

/-! ### One context changes and nothing else -/

/-- Context `c` holds operation `o`, the READY operations are those listed, and nothing else has changed. -/
structure OnlyCtx (s : State) (c : CtxId) (o : Operation) (ready : List CtxId) (t : State) : Prop where
  only : OnlyIn [.scheduler] s t
  ctx : t.ctx c = some o
  others : ∀ d, d ≠ c → t.ctx d = s.ctx d
  ready : t.sched.ready = ready

theorem OnlyCtx.refl {c : CtxId} {o : Operation} (h : s.ctx c = some o) : OnlyCtx s c o s.sched.ready s :=
  ⟨onlyIn_refl s _, h, fun _ _ => rfl, rfl⟩

theorem OnlyCtx.modCtx {c : CtxId} {o : Operation} {r : List CtxId} {u : State} (h : OnlyCtx s c o r u)
    (g : Operation → Operation) : OnlyCtx s c (g o) r (u.modCtx c g) :=
  ⟨h.only.trans (onlyIn_modCtx u c g), by rw [modCtx_ctx_same, h.ctx]; rfl,
    fun d hd => (modCtx_ctx_other u g hd).trans (h.others d hd), by simpa using h.ready⟩

theorem OnlyCtx.makeReady {c : CtxId} {o : Operation} {r : List CtxId} {u : State} (h : OnlyCtx s c o r u) :
    OnlyCtx s c { o with phase := .ready } (r ++ [c]) (makeReady c u) :=
  ⟨h.only.trans (onlyIn_makeReady u c), by rw [makeReady_ctx, if_pos rfl, h.ctx]; rfl,
    fun d hd => by rw [makeReady_ctx, if_neg hd, h.others d hd], by rw [makeReady_ready, h.ready]⟩

theorem OnlyCtx.settleIdle {c : CtxId} {o : Operation} {r : List CtxId} {u : State} (h : OnlyCtx s c o r u) :
    OnlyCtx s c o r (settleIdle u) :=
  ⟨onlyIn_settleIdle s h.only, by rw [settleIdle_ctx, h.ctx], fun d hd => by rw [settleIdle_ctx, h.others d hd],
    by simpa using h.ready⟩

theorem OnlyCtx.lines {c : CtxId} {o : Operation} {r : List CtxId} {t : State} (h : OnlyCtx s c o r t) :
    t.lines = s.lines := h.only.2.2 .lineTable (by simp)

theorem OnlyCtx.line {c : CtxId} {o : Operation} {r : List CtxId} {t : State} (h : OnlyCtx s c o r t) (n : LineId) :
    t.line n = s.line n := line_congr h.lines n

theorem OnlyCtx.parkTimer {c : CtxId} {o : Operation} {r : List CtxId} {t : State} (h : OnlyCtx s c o r t) :
    t.parkTimer = s.parkTimer := h.only.2.2 .parkTimer (by simp)

theorem OnlyCtx.flows {c : CtxId} {o : Operation} {r : List CtxId} {t : State} (h : OnlyCtx s c o r t) : Flows s t :=
  .of_same (congrArg RingFetcher.rings (h.only.2.2 .ringFetcher (by simp))) (h.only.2.2 .responseUnit (by simp))

/-- The operation ends after all. -/
theorem OnlyCtx.finish {c : CtxId} {o q : Operation} {u : State} (h : OnlyCtx s c q s.sched.ready u) (ho : s.ctx c = some o)
    (hr : q.ring = o.ring) (ht : q.tag = o.tag) (st : Status) (p a : Nat) :
    OnlyEnds s c ⟨st, p, a⟩ (Machine.settleIdle (Machine.finish c st p a u)) where
  only := onlyIn_settleIdle s ((h.only.mono (by simp)).trans ((onlyIn_finish u c st p a).mono (by simp)))
  ends := by
    refine endsWith_settleIdle s (h.flows.endsWith (fun x hx => ⟨q, h.ctx, ?_⟩) st p a)
    obtain rfl : o = x := by simpa [ho] using hx
    exact ⟨hr, ht⟩
  others d hd := by rw [settleIdle_ctx, finish_other u st p a hd, h.others d hd]
  ready := by simpa using h.ready

/-- A read has parked on a line with its deadline, and nothing else has changed. -/
structure OnlyParks (s : State) (c : CtxId) (o : Operation) (n : LineId) (e d : Nat) (t : State) : Prop where
  only : OnlyIn [.scheduler, .lineTable, .parkTimer] s t
  ctx : t.ctx c = some o
  others : ∀ x, x ≠ c → t.ctx x = s.ctx x
  ready : t.sched.ready = s.sched.ready
  line : t.line n = { s.line n with park := parkInsert ⟨c, e⟩ (s.line n).park }
  lines : ∀ j, j ≠ n → t.line j = s.line j
  parkTimer : t.parkTimer = s.parkTimer ++ [(c, d)]

/-- A read of which nothing but its own context has changed parks (R94, R113). -/
theorem OnlyCtx.parks {c : CtxId} {o : Operation} {u : State} (h : OnlyCtx s c o s.sched.ready u) (n : LineId)
    (e d tap : Nat) :
    OnlyParks s c { o with phase := .parked, stage := none, deadline := some d, waitTap := tap } n e d
      (Machine.settleIdle (parkRead n c e d tap u)) := by
  have h' := h.modCtx fun o => { o with phase := .parked, stage := none, deadline := some d, waitTap := tap }
  refine ⟨onlyIn_settleIdle s ((h'.only.mono (by simp)).trans ((onlyIn_parkOn _ n c e d).mono (by simp))), ?_,
    fun x hx => ?_, ?_, ?_, fun j hj => ?_, ?_⟩
  · rw [settleIdle_ctx]; exact h'.ctx
  · rw [settleIdle_ctx]; exact h'.others x hx
  · simpa [parkRead] using h.ready
  · rw [settleIdle_line, parkRead, parkOn_line, h'.line]
  · rw [settleIdle_line, parkRead, parkOn, State.setParkTimer_line, State.setLine_other _ _ _ _ hj, h'.line]
  · simp [parkRead, parkOn, h.parkTimer]

/-- The park list with an entry added after every entry whose window end is at or below its own (R16). -/
theorem parkInsert_eq (x : Parked) (l : List Parked) : parkInsert x l =
    (l.takeWhile fun y => decide (y.windowEnd ≤ x.windowEnd)) ++ x :: l.dropWhile fun y => decide (y.windowEnd ≤ x.windowEnd) := by
  induction l with
  | nil => rfl
  | cons y l ih =>
    unfold parkInsert
    by_cases h : y.windowEnd ≤ x.windowEnd
    · simp [h, ih]
    · simp [h]

variable (s)

/-! ### The start of a TAP -/

/-- Where a window starts that lies at or above 0 (R92, R113). -/
theorem windowStart_eq (l : Line) (absolute : Bool) (fld : Nat) : windowStart l absolute fld =
    if absolute = false ∧ l.w < fld then none else some (if absolute = true then fld else l.w - fld) := by
  unfold windowStart
  cases absolute with
  | true => simp
  | false => by_cases h : fld ≤ l.w <;> simp [h, Nat.not_lt.2, Nat.lt_of_not_le]

theorem maskFits_eq_false (l : Line) (mask : BitVec 16) : maskFits l mask = false ↔ 2 ^ l.channels ≤ mask.toNat := by
  simp [maskFits]

/-- Settles O35: by R91's checks in their order. -/
theorem tapStart : Obligations.TapStart := by
  intro s k c n addr N wait absolute fld p mask hstart hp
  obtain ⟨o, ho, -⟩ := nextStart_body s hstart
  refine ⟨settleIdle (startTap n c N wait absolute fld mask s), by simp only [exec, execTap, hstart, took_eq], ?_⟩
  have fails : ∀ {st p a}, startTap n c N wait absolute fld mask s = finish c st p a s →
      OnlyEnds s c ⟨st, p, a⟩ (settleIdle (startTap n c N wait absolute fld mask s)) :=
    fun h => h ▸ onlyEnds_finish s c _ _ _
  by_cases h1 : (s.line n).state ≠ .opened
  · have h := fails (if_pos h1)
    rw [if_pos h1]
    exact ⟨h.only.mono (by simp), fun j _ => h.line j, h.others, h.ends, h.lines⟩
  rw [if_neg h1]
  by_cases h2 : (s.line n).cap < N
  · have h := fails ((if_neg h1).trans (if_pos h2))
    rw [if_pos h2]
    exact ⟨h.only.mono (by simp), fun j _ => h.line j, h.others, h.ends, h.lines⟩
  rw [if_neg h2]
  by_cases h3 : maskFits (s.line n) mask = false
  · have h := fails ((if_neg h1).trans ((if_neg h2).trans (if_pos h3)))
    rw [if_pos ((maskFits_eq_false _ _).1 h3)]
    exact ⟨h.only.mono (by simp), fun j _ => h.line j, h.others, h.ends, h.lines⟩
  rw [if_neg (fun h => h3 ((maskFits_eq_false _ _).2 h))]
  have hwin := windowStart_eq (s.line n) absolute fld
  by_cases h4 : absolute = false ∧ (s.line n).w < fld
  · rw [if_pos h4] at hwin
    have h : OnlyEnds s c ⟨.gone, oldestCounting (s.line n), 1⟩ (settleIdle (startTap n c N wait absolute fld mask s)) :=
      fails (by simp only [startTap, h1, h2, h3, hwin, reduceCtorEq, if_false])
    rw [if_pos h4]
    exact ⟨h.only.mono (by simp), fun j _ => h.line j, h.others, h.ends, h.lines⟩
  rw [if_neg h4, ← hp] at hwin
  rw [if_neg h4]
  have hplace : startTap n c N wait absolute fld mask s = placeTap n c p N wait s := by
    simp only [startTap, h1, h2, h3, hwin, reduceCtorEq, if_false]
  have fails : ∀ {st q a}, placeTap n c p N wait s = finish c st q a s →
      OnlyEnds s c ⟨st, q, a⟩ (settleIdle (placeTap n c p N wait s)) := fun h => h ▸ onlyEnds_finish s c _ _ _
  rw [hplace]
  by_cases h5 : Config.maxPosition < p + N
  · have h := fails (if_pos h5)
    rw [if_pos (by exact h5)]
    exact ⟨h.only.mono (by simp), fun j _ => h.line j, h.others, h.ends, h.lines⟩
  rw [if_neg (by exact h5)]
  by_cases h6 : p < oldestCounting (s.line n)
  · have h := fails ((if_neg h5).trans (if_pos h6))
    rw [if_pos h6]
    exact ⟨h.only.mono (by simp), fun j _ => h.line j, h.others, h.ends, h.lines⟩
  rw [if_neg h6]
  have kept := (OnlyCtx.refl ho).modCtx fun o => { o with starts := o.starts ++ [p] }
  by_cases h7 : p + N ≤ (s.line n).w
  · have hu : placeTap n c p N wait s = makeReady c (keepStart c p s) := (if_neg h5).trans ((if_neg h6).trans (if_pos h7))
    have h := kept.makeReady.settleIdle
    rw [hu, if_pos h7]
    exact ⟨h.only.mono (by simp), fun j _ => h.line j, h.others, h.lines, h.parkTimer, h.ready, by rw [ho]; exact h.ctx⟩
  rw [if_neg h7]
  by_cases h8 : wait = 0
  · have h := fails ((if_neg h5).trans ((if_neg h6).trans ((if_neg h7).trans (if_pos h8))))
    rw [if_pos h8]
    exact ⟨h.only.mono (by simp), fun j _ => h.line j, h.others, h.ends, h.lines⟩
  rw [if_neg h8]
  have hu : placeTap n c p N wait s = parkRead n c (p + N) (s.now + wait) 0 (keepStart c p s) :=
    (if_neg h5).trans ((if_neg h6).trans ((if_neg h7).trans (if_neg h8)))
  have h := kept.parks n (p + N) (s.now + wait) 0
  rw [hu]
  refine ⟨h.only.mono (by simp), h.lines, h.others, h.parkTimer, h.ready, h.line.trans (by rw [parkInsert_eq]), _, h.ctx,
    rfl, rfl, rfl, fun q hq => ?_⟩
  obtain rfl : o = q := by simpa [ho] using hq
  exact ⟨rfl, rfl⟩

/-! ### The shape pass of a MIX -/

/-- What a visit of the shape pass does to a PASSING MIX (R112). -/
theorem shapeVisit_spec {c : CtxId} {o : Operation} {dest : Option LineId} {N : Nat} {taps : List MixTap} {i : Nat}
    {n : LineId} {number : Nat} {u : State} (hne : taps ≠ []) (ho : s.ctx c = some o)
    (hu : OnlyCtx s c { o with phase := .passing } s.sched.ready u)
    (hn : (∃ x, taps[i]? = some x ∧ n = x.line ∧ number = i + 1) ∨ (i = taps.length ∧ dest = some n ∧ number = 0)) :
    ∃ t, t = settleIdle (shapeVisit c dest N taps i u) ∧ OnlyIn [.ringFetcher, .scheduler, .responseUnit] s t ∧
      (∀ d, d ≠ c → t.ctx d = s.ctx d) ∧ t.sched.ready = s.sched.ready ∧
      if (s.line n).state ≠ .opened then EndsWith s c ⟨.noLine, 0, number⟩ t
      else if (s.line n).cap < N then EndsWith s c ⟨.tooLong, (s.line n).w, (s.line n).cap⟩ t
      else if (taps.head?.map fun x => (s.line x.line).channels) ≠ some (s.line n).channels then
        EndsWith s c ⟨.badShape, 0, number⟩ t
      else t.ctx c = some { o with phase := .passing, stage := some (afterShape dest taps i) } := by
  have hone : (taps.head?.map fun x => (s.line x.line).channels) = some (tapOneChannels taps u) := by
    cases taps with
    | nil => exact absurd rfl hne
    | cons x xs => simp [tapOneChannels, hu.line]
  have hvisit : shapeVisit c dest N taps i u = match shapeCheck n number N taps u with
      | some r => finish c r.status r.pos r.aux u
      | none => setStage c (afterShape dest taps i) u := by
    rcases hn with ⟨x, hx, rfl, rfl⟩ | ⟨rfl, rfl, rfl⟩
    · simp only [shapeVisit, hx] <;> rfl
    · simp only [shapeVisit, List.getElem?_length, Option.map_some] <;> rfl
  have ends : ∀ r, shapeCheck n number N taps u = some r →
      OnlyEnds s c r (settleIdle (shapeVisit c dest N taps i u)) := fun r hr => by
    rw [hvisit, hr]
    exact hu.finish ho rfl rfl r.status r.pos r.aux
  refine ⟨_, rfl, ?_⟩
  rw [hone]
  unfold shapeCheck at ends hvisit
  simp only [hu.line] at ends hvisit
  by_cases h1 : (s.line n).state ≠ .opened
  · have h := ends _ (if_pos h1)
    rw [if_pos h1]
    exact ⟨h.only, h.others, h.ready, h.ends⟩
  rw [if_neg h1]
  by_cases h2 : (s.line n).cap < N
  · have h := ends _ ((if_neg h1).trans (if_pos h2))
    rw [if_pos h2]
    exact ⟨h.only, h.others, h.ready, h.ends⟩
  rw [if_neg h2]
  by_cases h3 : (s.line n).channels ≠ tapOneChannels taps u
  · have h := ends _ ((if_neg h1).trans ((if_neg h2).trans (if_pos h3)))
    rw [if_pos (by simpa using Ne.symm h3)]
    exact ⟨h.only, h.others, h.ready, h.ends⟩
  rw [if_neg (by simpa using (not_not.1 h3).symm)]
  have h := (hu.modCtx fun o => { o with stage := some (afterShape dest taps i) }).settleIdle
  rw [hvisit]
  simp only [h1, h2, h3, if_false]
  exact ⟨h.only.mono (by simp), h.others, h.ready, h.ctx⟩

/-- Settles O39: the start and a later visit are one visit to a PASSING MIX. -/
theorem mixShapePass : Obligations.MixShapePass := by
  intro s cmd k c o dest addr N wait taps i n number hne ho hcmd hn
  rcases hcmd with ⟨rfl, hstart, rfl⟩ | ⟨rfl, hb, hs, hp⟩
  · obtain ⟨t, rfl, h⟩ := shapeVisit_spec (N := N) s hne ho ((OnlyCtx.refl ho).modCtx fun o => { o with phase := .passing }) hn
    exact ⟨_, by simp only [exec, execMix, hstart]; rfl, h⟩
  · have hself : { o with phase := .passing } = o := by rw [← hp]
    obtain ⟨t, rfl, h⟩ := shapeVisit_spec (N := N) s hne ho (by rw [hself]; exact OnlyCtx.refl ho) hn
    exact ⟨_, by simp only [exec, execMixLineVisit, ho, hb, hs]; rfl, h⟩

/-! ### The placement passes of a MIX -/

/-- A MIX proceeds (R118): READY with a host destination, else its destination's visit comes next. -/
theorem OnlyCtx.proceeds {s : State} {c : CtxId} {o : Operation} {u : State} (h : OnlyCtx s c o s.sched.ready u) (dest : Option LineId) :
    OnlyCtx s c { o with stage := if dest.isSome = true then some .join else none
                         phase := if dest.isSome = true then o.phase else .ready }
      (s.sched.ready ++ if dest.isSome = true then [] else [c]) (proceed c dest u) := by
  cases dest with
  | none => exact (h.modCtx fun o => { o with stage := none }).makeReady
  | some n => simpa [proceed, setStage] using h.modCtx fun o => { o with stage := some .join }

/-- Settles O40: by R113's checks in their order. -/
theorem mixPlacement : Obligations.MixPlacement := by
  intro s c o dest addr N wait taps i x l p ho hb hs hx hl hp
  subst hl
  refine ⟨settleIdle (placeVisit c o dest N wait taps i s), by simp only [exec, execMixLineVisit, ho, hb, hs, took_eq], ?_⟩
  have fails : ∀ {st q a}, placeVisit c o dest N wait taps i s = finish c st q a s →
      OnlyEnds s c ⟨st, q, a⟩ (settleIdle (placeVisit c o dest N wait taps i s)) :=
    fun h => h ▸ onlyEnds_finish s c _ _ _
  by_cases h1 : x.line ∈ o.marks ∨ (s.line x.line).state ≠ .opened
  · have h : OnlyEnds s c ⟨.noLine, 0, i + 1⟩ _ := fails (by simp only [placeVisit, hx, h1, if_true])
    rw [if_pos h1]
    exact ⟨h.only.mono (by simp), fun j _ => h.line j, h.others, h.ends, h.lines⟩
  rw [if_neg h1]
  have hwin := windowStart_eq (s.line x.line) x.absolute x.field
  by_cases h2 : x.absolute = false ∧ (s.line x.line).w < x.field
  · rw [if_pos h2] at hwin
    have h : OnlyEnds s c ⟨.gone, oldestCounting (s.line x.line), i + 1 + 256⟩ _ :=
      fails (by simp only [placeVisit, hx, h1, hwin, if_false])
    rw [if_pos h2]
    exact ⟨h.only.mono (by simp), fun j _ => h.line j, h.others, h.ends, h.lines⟩
  rw [if_neg h2, ← hp] at hwin
  rw [if_neg h2]
  by_cases h3 : Config.maxPosition < p + N
  · have h : OnlyEnds s c ⟨.positionLimit, p, i + 1⟩ _ := fails (by simp only [placeVisit, hx, h1, hwin, h3, if_false, if_true])
    rw [if_pos (by exact h3)]
    exact ⟨h.only.mono (by simp), fun j _ => h.line j, h.others, h.ends, h.lines⟩
  rw [if_neg (by exact h3)]
  by_cases h4 : p < oldestCounting (s.line x.line)
  · have h : OnlyEnds s c ⟨.gone, oldestCounting (s.line x.line), i + 1 + 256⟩ _ :=
      fails (by simp only [placeVisit, hx, h1, hwin, h3, h4, if_false, if_true])
    rw [if_pos h4]
    exact ⟨h.only.mono (by simp), fun j _ => h.line j, h.others, h.ends, h.lines⟩
  rw [if_neg h4]
  have kept := (OnlyCtx.refl ho).modCtx fun o => { o with starts := o.starts ++ [p] }
  by_cases h5 : p + N ≤ (s.line x.line).w
  · rw [if_pos h5]
    by_cases h6 : i + 1 < taps.length
    · have hu : placeVisit c o dest N wait taps i s = setStage c (.place (i + 1)) (keepStart c p s) := by
        simp only [placeVisit, hx, h1, hwin, h3, h4, h5, h6, if_false, if_true]
      have h := (kept.modCtx fun o => { o with stage := some (.place (i + 1)) }).settleIdle
      rw [hu, if_pos h6]
      exact ⟨h.only.mono (by simp), fun j _ => h.line j, h.others, h.lines, h.parkTimer, h.ctx, h.ready⟩
    · have hu : placeVisit c o dest N wait taps i s = proceed c dest (keepStart c p s) := by
        simp only [placeVisit, hx, h1, hwin, h3, h4, h5, h6, if_false, if_true]
      have h := (kept.proceeds dest).settleIdle
      rw [hu, if_neg h6]
      refine ⟨h.only.mono (by simp), fun j _ => h.line j, h.others, h.lines, h.parkTimer, ?_⟩
      have hc := h.ctx
      have hr := h.ready
      cases dest with
      | none => exact ⟨hc, hr⟩
      | some n => exact ⟨hc, hr.trans (by simp)⟩
  rw [if_neg h5]
  by_cases h6 : wait = 0
  · have h : OnlyEnds s c ⟨.notReady, (s.line x.line).w, i + 1⟩ _ :=
      fails (by simp only [placeVisit, hx, h1, hwin, h3, h4, h5, h6, if_false, if_true])
    rw [if_pos h6]
    exact ⟨h.only.mono (by simp), fun j _ => h.line j, h.others, h.ends, h.lines⟩
  rw [if_neg h6]
  have hu : placeVisit c o dest N wait taps i s =
      parkRead x.line c (p + N) (s.now + wait) (i + 1) (keepStart c p s) := by
    simp only [placeVisit, hx, h1, hwin, h3, h4, h5, h6, if_false]
  have h := kept.parks x.line (p + N) (s.now + wait) (i + 1)
  rw [hu]
  exact ⟨h.only.mono (by simp), h.lines, h.others, h.parkTimer, h.ready, h.line.trans (by rw [parkInsert_eq]), h.ctx⟩

/-- The window start of a tap in a wake's pass (R116): the one kept, or the one its field names now. -/
theorem startOfTap_eq (o : Operation) (l : Line) (x : MixTap) (i : Nat) : startOfTap o l x i =
    if o.starts.length ≤ i ∧ x.absolute = false ∧ l.w < x.field then none
    else some ((o.starts[i]?).getD (if x.absolute = true then x.field else l.w - x.field)) := by
  unfold startOfTap
  by_cases h : o.starts.length ≤ i
  · rw [List.getElem?_eq_none h, windowStart_eq]
    simp [h]
  · rw [List.getElem?_eq_getElem (Nat.lt_of_not_le h)]
    simp [h]

/-- Settles O41: by R116's checks in their order. -/
theorem mixWake : Obligations.MixWake := by
  intro s c o dest addr N wait taps i x l p kept ho hb hs hx hl hp hkept
  subst hl
  refine ⟨settleIdle (wakeVisit c o dest N taps i s), by simp only [exec, execMixLineVisit, ho, hb, hs, took_eq], ?_⟩
  have fails : ∀ {st q a}, wakeVisit c o dest N taps i s = finish c st q a s →
      OnlyEnds s c ⟨st, q, a⟩ (settleIdle (wakeVisit c o dest N taps i s)) :=
    fun h => h ▸ onlyEnds_finish s c _ _ _
  by_cases h1 : x.line ∈ o.marks ∨ (s.line x.line).state ≠ .opened
  · have h : OnlyEnds s c ⟨.noLine, 0, i + 1⟩ _ := fails (by simp only [wakeVisit, hx, h1, if_true])
    rw [if_pos h1]
    exact ⟨h.only.mono (by simp), fun j _ => h.line j, h.others, h.ends, h.lines⟩
  rw [if_neg h1]
  have hwin := startOfTap_eq o (s.line x.line) x i
  by_cases h2 : o.starts.length ≤ i ∧ x.absolute = false ∧ (s.line x.line).w < x.field
  · rw [if_pos h2] at hwin
    have h : OnlyEnds s c ⟨.gone, oldest (s.line x.line), i + 1 + 512⟩ _ :=
      fails (by simp only [wakeVisit, hx, h1, hwin, if_false])
    rw [if_pos h2]
    exact ⟨h.only.mono (by simp), fun j _ => h.line j, h.others, h.ends, h.lines⟩
  rw [if_neg h2, ← hp] at hwin
  rw [if_neg h2]
  by_cases h3 : Config.maxPosition < p + N
  · have h : OnlyEnds s c ⟨.positionLimit, p, i + 1⟩ _ := fails (by simp only [wakeVisit, hx, h1, hwin, h3, if_false, if_true])
    rw [if_pos (by exact h3)]
    exact ⟨h.only.mono (by simp), fun j _ => h.line j, h.others, h.ends, h.lines⟩
  rw [if_neg (by exact h3)]
  by_cases h4 : p < oldest (s.line x.line)
  · have h : OnlyEnds s c ⟨.gone, oldest (s.line x.line), i + 1 + 512⟩ _ :=
      fails (by simp only [wakeVisit, hx, h1, hwin, h3, h4, if_false, if_true])
    rw [if_pos h4]
    exact ⟨h.only.mono (by simp), fun j _ => h.line j, h.others, h.ends, h.lines⟩
  rw [if_neg h4]
  have hkeep : OnlyCtx s c kept s.sched.ready (keepTap c o i p s) := by
    unfold keepTap
    rw [hkept]
    split
    · exact (OnlyCtx.refl ho).modCtx fun o => { o with starts := o.starts ++ [p] }
    · exact OnlyCtx.refl ho
  by_cases h5 : p + N ≤ (s.line x.line).w
  · rw [if_pos h5]
    by_cases h6 : i + 1 < taps.length
    · have hu : wakeVisit c o dest N taps i s = setStage c (.wake (i + 1)) (keepTap c o i p s) := by
        simp only [wakeVisit, hx, h1, hwin, h3, h4, h5, h6, if_false, if_true]
      have h := (hkeep.modCtx fun o => { o with stage := some (.wake (i + 1)) }).settleIdle
      rw [hu, if_pos h6]
      exact ⟨h.only.mono (by simp), fun j _ => h.line j, h.others, h.lines, h.parkTimer, h.ctx, h.ready⟩
    rw [if_neg h6]
    have hu : wakeVisit c o dest N taps i s = wakeEnd c o dest (keepTap c o i p s) := by
      simp only [wakeVisit, hx, h1, hwin, h3, h4, h5, h6, if_false, if_true]
    rw [hu]
    cases dest with
    | none =>
      have h := (hkeep.proceeds none).settleIdle
      exact ⟨h.only.mono (by simp), fun j _ => h.line j, h.others, h.lines, h.parkTimer, h.ctx, h.ready⟩
    | some n =>
      by_cases h7 : n ∈ o.marks
      · have hring : kept.ring = o.ring ∧ kept.tag = o.tag := by rw [hkept]; split <;> exact ⟨rfl, rfl⟩
        have h := hkeep.finish ho hring.1 hring.2 .noLine 0 0
        rw [show wakeEnd c o (some n) (keepTap c o i p s) = finish c .noLine 0 0 (keepTap c o i p s) from if_pos h7]
        simp only [h7, if_true]
        exact ⟨h.only.mono (by simp), fun j _ => h.line j, h.others, h.lines, h.parkTimer, h.ready, h.ends⟩
      · have h := (hkeep.proceeds (some n)).settleIdle
        rw [show wakeEnd c o (some n) (keepTap c o i p s) = proceed c (some n) (keepTap c o i p s) from if_neg h7]
        simp only [h7, if_false]
        exact ⟨h.only.mono (by simp), fun j _ => h.line j, h.others, h.lines, h.parkTimer, by simpa using h.ready, h.ctx⟩
  rw [if_neg h5]
  by_cases h6 : o.deadline.getD 0 ≤ s.now
  · have h : OnlyEnds s c ⟨.expired, (s.line x.line).w, i + 1⟩ _ :=
      fails (by simp only [wakeVisit, hx, h1, hwin, h3, h4, h5, h6, if_false, if_true])
    rw [if_pos h6]
    exact ⟨h.only.mono (by simp), fun j _ => h.line j, h.others, h.ends, h.lines⟩
  rw [if_neg h6]
  have hu : wakeVisit c o dest N taps i s =
      parkRead x.line c (p + N) (o.deadline.getD 0) (i + 1) (keepTap c o i p s) := by
    simp only [wakeVisit, hx, h1, hwin, h3, h4, h5, h6, if_false]
  have h := hkeep.parks x.line (p + N) (o.deadline.getD 0) (i + 1)
  rw [hu]
  exact ⟨h.only.mono (by simp), h.lines, h.others, h.parkTimer, h.ready, h.line.trans (by rw [parkInsert_eq]), h.ctx⟩

end Sys2Proof.Machine

/-! PROOF. Events that let go of a line: the drain test, a pin removed, a parked read that expires, the end of a TAP's
moving (R6, R13, R96, R104 to R106, R132). -/

namespace Sys2Proof.Machine

variable (s : State)

/-! ### The drain of a line -/

theorem drained_iff (l : Line) : drained l = true ↔ l.writers = [] ∧ l.park = [] ∧ l.pins = [] := by
  simp [drained, and_assoc]

/-- A line that nothing holds any more as the drain test leaves it, its CLOSE_LINE aside (R132). -/
def lineFreed (n : LineId) (s : State) : State :=
  (s.setStore { s.store with freeExts := returnExtents (s.line n).extents s.store.freeExts }).setLine n Line.freeLine

theorem drainTest_of_drained {n : LineId} (h : (s.line n).state = .closing ∧ drained (s.line n) = true) :
    drainTest n s = if holdsCloseLine n s then
      finish 0 .ok (s.line n).w (((s.ctx 0).map Operation.ended).getD 0) (lineFreed n s) else lineFreed n s := by
  simp only [drainTest, h, and_self, if_true, lineFreed]

theorem drainTest_store (n : LineId) : (drainTest n s).store =
    if (s.line n).state = .closing ∧ drained (s.line n) = true then
      { s.store with freeExts := returnExtents (s.line n).extents s.store.freeExts }
    else s.store := by
  split
  · next h =>
    rw [drainTest_of_drained s h]
    split <;> simp [lineFreed]
  · next h =>
    rw [show drainTest n s = s from if_neg h]

theorem drainTest_line_same (n : LineId) : (drainTest n s).line n =
    if (s.line n).state = .closing ∧ drained (s.line n) = true then Line.freeLine else s.line n := by
  split
  · next h => exact (drainTest_drains s h.1 h.2).1
  · next h => rw [show drainTest n s = s from if_neg h]

/-- The drain test of a line whose entry an event has made `l`, all else a drain depends on being as before. -/
theorem drainTest_lineLeft {u : State} {n : LineId} {l : Line} (hl : u.line n = l) (hs : u.store = s.store)
    (hf : Flows s u) (h0 : l.writers = [] → holdsCloseLine n s = true → u.ctx 0 = s.ctx 0) :
    LineLeft s n l (drainTest n u) := by
  unfold LineLeft
  have hcond : (l.state = .closing ∧ l.writers = [] ∧ l.park = [] ∧ l.pins = []) ↔
      ((u.line n).state = .closing ∧ drained (u.line n) = true) := by rw [drained_iff, hl]
  split
  · next h =>
    have hd := hcond.1 h
    refine ⟨by rw [drainTest_line_same, if_pos hd], by rw [drainTest_store, if_pos hd, hs, hl], fun o ho hb hp => ?_⟩
    have hclose : holdsCloseLine n s = true := (holdsCloseLine_iff s n).2 ⟨o, ho, hb, hp⟩
    have hctx := h0 h.2.1 hclose
    have hfreed : Flows s (lineFreed n u) := hf.trans ((flows_setStore u _).trans (flows_setLine _ n _))
    rw [drainTest_of_drained u hd, if_pos ((holdsCloseLine_congr s hctx n).trans hclose), hctx, ho, hl]
    exact hfreed.endsWith (.of_eq hctx) .ok l.w o.ended
  · next h =>
    have hd := mt hcond.2 h
    exact ⟨by rw [drainTest_line_same, if_neg hd, hl], by rw [drainTest_store, if_neg hd, hs]⟩

variable {s}

/-- What a line was left as, it is after steps that touch neither it nor its CLOSE_LINE. -/
theorem LineLeft.after {n : LineId} {l : Line} {u t : State} (h : LineLeft s n l u) (hl : t.line n = u.line n)
    (hs : t.store = u.store) (hf : Flows u t) (h0 : holdsCloseLine n s = true → t.ctx 0 = u.ctx 0) : LineLeft s n l t := by
  unfold LineLeft at h ⊢
  rw [hl, hs]
  split
  · next hd =>
    rw [if_pos hd] at h
    refine ⟨h.1, h.2.1, fun o ho hb hp => ?_⟩
    exact (h.2.2 o ho hb hp).after hf (h0 ((holdsCloseLine_iff s n).2 ⟨o, ho, hb, hp⟩))
  · next hd => rwa [if_neg hd] at h

/-- The writer a guard check released is READY after steps that touch neither it nor the list of READY operations. -/
theorem GuardRetested.after {l : Line} {u t : State} (h : GuardRetested s l u) (hr : t.sched.ready = u.sched.ready)
    (hc : ∀ d, s.inPhase d .guardWait = true → t.ctx d = u.ctx d) : GuardRetested s l t := by
  unfold GuardRetested at h ⊢
  cases hw : l.writers with
  | nil => simpa [hw, hr] using h
  | cons y ys =>
    simp only [hw] at h ⊢
    split
    · next hg =>
      rw [if_pos hg] at h
      exact ⟨hr.trans h.1, (hc _ hg.2.1).trans h.2⟩
    · next hg =>
      rw [if_neg hg] at h
      exact hr.trans h

variable (s)

/-! ### A pin removed -/

@[simp] theorem guardRecheck_line (n j : LineId) : (guardRecheck n s).line j = s.line j := by simp [State.line]

theorem removePin_line_other {n j : LineId} (c : CtxId) (h : j ≠ n) : (removePin n c s).line j = s.line j := by
  unfold removePin
  rw [drainTest_line_other _ h, guardRecheck_line, State.setLine_other _ _ _ _ h]

/-- Of the contexts a pin removed touches that of a writer in GUARD_WAIT and that of a CLOSE_LINE (R13, R132). -/
theorem removePin_ctx {n : LineId} {d : CtxId} (c : CtxId) (h : d ≠ 0 ∨ holdsCloseLine n s = false)
    (hp : s.inPhase d .guardWait = false) : (removePin n c s).ctx d = s.ctx d := by
  unfold removePin
  have hguard : (guardRecheck n (s.setLine n { s.line n with pins := (s.line n).pins.filter fun x => x.ctx ≠ c })).ctx d =
      s.ctx d := guardRecheck_ctx _ (by exact hp)
  refine (drainTest_ctx _ ?_).trans hguard
  by_cases h0 : d = 0
  · subst h0
    exact .inr ((holdsCloseLine_congr s hguard n).trans (h.resolve_left (by simp)))
  · exact .inl h0

/-- What removing a pin does to its line and to the head of the line's write queue (R6, R11, R13). -/
theorem removePin_spec (n : LineId) (c : CtxId) {l : Line}
    (hl : l = { s.line n with pins := (s.line n).pins.filter fun x => decide (x.ctx ≠ c) }) :
    LineLeft s n l (removePin n c s) ∧ GuardRetested s l (removePin n c s) := by
  let u := s.setLine n l
  have hu : u.line n = l := State.setLine_same s n l
  have hremove : removePin n c s = drainTest n (guardRecheck n u) := by rw [removePin, ← hl]
  have hflows : Flows s (guardRecheck n u) := (flows_setLine s n l).trans (flows_guardRecheck u n)
  rw [hremove]
  refine ⟨drainTest_lineLeft s (by simp [hu]) (by simp [u]) hflows fun hw _ => ?_, ?_⟩
  · rw [guardRecheck_not u fun x xs h => by rw [hu, hw] at h; cases h]
    rfl
  · unfold GuardRetested
    cases hw : l.writers with
    | nil =>
      rw [guardRecheck_not u fun x xs h => by rw [hu, hw] at h; cases h]
      simp [u]
    | cons y ys =>
      have hnot : drainTest n (guardRecheck n u) = guardRecheck n u :=
        drainTest_not _ (.inr (by rw [guardRecheck_line, hu]; simp [drained, hw]))
      rw [hnot]
      dsimp only
      split
      · next h =>
        have hready : guardRecheck n u = makeReady y.ctx u := guardRecheck_ready u (hu.symm ▸ hw) (hu.symm ▸ h)
        rw [hready]
        exact ⟨rfl, by rw [makeReady_ctx, if_pos rfl]; rfl⟩
      · next h =>
        rw [guardRecheck_not u fun x xs hx => by
          rw [hu] at hx ⊢
          rw [hw] at hx
          cases hx
          exact h]
        rfl

/-! ### The end of a TAP's moving -/

/-- An operation whose record is no CLOSE_LINE is not the one a drain completes (R132). -/
theorem not_closeLine_of {n : LineId} {c : CtxId} {o : Operation} (ho : s.ctx c = some o)
    (hb : o.body ≠ some (.closeLine n)) : c ≠ 0 ∨ holdsCloseLine n s = false := by
  by_cases h0 : c = 0
  · subst h0
    refine .inr (Bool.eq_false_iff.2 fun h => ?_)
    obtain ⟨q, hq, hq', -⟩ := (holdsCloseLine_iff s n).1 h
    rw [ho] at hq
    cases hq
    exact hb hq'
  · exact .inl h0

/-- Settles O37: the pin goes first, and the TAP's own end touches neither its line nor a writer in GUARD_WAIT. -/
theorem tapEnd : Obligations.TapEnd := by
  intro s m mv o n addr N wait absolute fld mask l hm ho hb hp hruns hout hdone hl
  let r := tapResult n mv o N s
  let u := removePin n mv.ctx (s.setMover m none)
  have hexec : exec (.tapEndOfMoving m) s = took (finish mv.ctx r.status r.pos r.aux u) := by
    have hread : readDone m mv (.tap n addr N wait absolute fld mask) s = true := by
      simp only [readDone, Bool.and_eq_true, runsRead_iff, settledMover_iff, decide_eq_true_eq]
      exact ⟨⟨hruns, hout⟩, hdone⟩
    simp only [exec, execTapEndOfMoving, hm, ho, hb, hp, hread, and_self, if_true]
    rfl
  have hnot : mv.ctx ≠ 0 ∨ holdsCloseLine n (s.setMover m none) = false :=
    not_closeLine_of (s.setMover m none) ho (by simp [hb])
  have hctx : u.ctx mv.ctx = s.ctx mv.ctx := removePin_ctx _ _ hnot ((inPhase_of s ho _).trans (by simp [hp]))
  have hflows : Flows s u := (flows_setMover s m none).trans (flows_removePin _ n mv.ctx)
  obtain ⟨hleft, hguard⟩ := removePin_spec (s.setMover m none) n mv.ctx hl
  let t := settleIdle (finish mv.ctx r.status r.pos r.aux u)
  have hafter : Flows u t := (flows_finish u _ _ _ _).trans (flows_settleIdle _)
  have hother : ∀ d, d ≠ mv.ctx → t.ctx d = u.ctx d := fun d hd => by
    rw [settleIdle_ctx, finish_other u _ _ _ hd]
  refine ⟨t, hexec, ?_, ?_, fun j hj => ?_, fun j hj => ?_, ?_, ?_, ?_⟩
  · refine onlyIn_settleIdle s (OnlyIn.trans (((onlyIn_setMover s m none).mono (by simp)).trans
      ((onlyIn_removePin _ n mv.ctx).mono (by simp))) ((onlyIn_finish u _ _ _ _).mono (by simp)))
  · simp [t, u, State.mover, State.setMover]
  · rw [show t.mover j = (s.setMover m none).mover j by simp [t, u, State.mover], State.setMover_other _ _ _ _ hj]
  · rw [settleIdle_line, finish_line, removePin_line_other _ _ hj, State.setMover_line]
  · refine LineLeft.after (u := u) hleft (by simp [t]) (by simp [t]) hafter fun h => hother 0 ?_
    have := hnot.resolve_right (by rw [holdsCloseLine_congr s (State.setMover_ctx s m none 0)]; simp [h])
    exact Ne.symm this
  · refine GuardRetested.after (u := u) hguard (by simp [t]) fun d hd => hother d ?_
    rintro rfl
    rw [inPhase_of s ho] at hd
    simp [hp] at hd
  · exact endsWith_settleIdle s (hflows.endsWith (.of_eq hctx) r.status r.pos r.aux)

/-! ### The expiry of a parked read -/

/-- An operation with a park line is a read (R114). -/
theorem body_of_parkedLine {o : Operation} {n : LineId} (h : parkedLine o = some n) (k : LineId) :
    o.body ≠ some (.closeLine k) := by
  intro hb
  simp [parkedLine, hb] at h

/-- Settles O38: the read leaves its line, ends, and the drain test follows. -/
theorem parkExpiry : Obligations.ParkExpiry := by
  intro s c o n ho hn
  constructor
  · intro d e l hd hnow he hl
    let u := finish c .expired (s.line n).w o.waitTap (unpark n c s)
    have hexec : exec (.parkDeadlineExpiry c) s = took (drainTest n u) := by
      have h1 : deadlineReached c s = true := List.any_eq_true.2 ⟨_, hd, by simpa using hnow⟩
      have h2 : onPark n c s = true := List.any_eq_true.2 ⟨_, he, by simp⟩
      simp only [exec, execParkDeadlineExpiry, ho, hn, h1, h2, and_self, if_true, u]
    have hnot := not_closeLine_of s ho (body_of_parkedLine hn n)
    have hflows : Flows s (unpark n c s) := flows_unpark s n c
    have hclosed : holdsCloseLine n u = true → c ≠ 0 := by
      intro h hc
      subst hc
      obtain ⟨q, hq, -, hp⟩ := (holdsCloseLine_iff u n).1 h
      by_cases ha : ((unpark n 0 s).respRing ((unpark n 0 s).ring o.ring).resp).state = .active
      · simp only [u, finish_active _ _ _ _ (show (unpark n 0 s).ctx 0 = some o from ho) ha, State.setPosts_ctx,
          State.setCtx_same, Option.some.injEq] at hq
        subst hq
        cases hp
      · simp only [u, finish_discarded _ _ _ _ (show (unpark n 0 s).ctx 0 = some o from ho) ha, freeCtx_same] at hq
        cases hq
    have huline : u.line n = l := by rw [hl]; simp [u, unpark_line]
    have hother : ∀ x, x ≠ c → u.ctx x = s.ctx x := fun x hx => by
      rw [show u.ctx x = (unpark n c s).ctx x from finish_other _ _ _ _ hx]; rfl
    have hleft : LineLeft s n l (drainTest n u) :=
      drainTest_lineLeft s huline (by simp [u]) (hflows.trans (flows_finish _ _ _ _ _)) fun _ h => by
        rcases hnot with h0 | h0
        · exact hother 0 (Ne.symm h0)
        · rw [h0] at h; cases h
    have hends : EndsWith s c ⟨.expired, (s.line n).w, o.waitTap⟩ (drainTest n u) := by
      refine (hflows.endsWith (.of_eq rfl) _ _ _).after (flows_drainTest u n) (drainTest_ctx u ?_)
      by_cases h0 : c = 0
      · exact .inr (Bool.eq_false_iff.2 fun h => hclosed h h0)
      · exact .inl h0
    refine ⟨_, hexec, ?_, endsWith_settleIdle s hends, fun j hj => ?_, ?_, ?_, ?_⟩
    · exact onlyIn_settleIdle s ((((onlyIn_unpark s n c).mono (by simp)).trans ((onlyIn_finish _ _ _ _ _).mono (by simp))).trans
        ((onlyIn_drainTest u n).mono (by simp)))
    · rw [settleIdle_line, drainTest_line_other _ hj, finish_line, unpark_line_other _ _ hj]
    · simp [u, unpark]
    · simp [u]
    · exact hleft.after (by simp) (by simp) (flows_settleIdle _) fun _ => by simp
  · intro h
    have hoff : onPark n c s = false := List.any_eq_false.2 fun x hx => by simpa using h x hx
    simp only [exec, execParkDeadlineExpiry, ho, hn, hoff, Bool.false_eq_true, and_false, if_false]
    rfl

/-- Settles O49: the drain test of a drained line. -/
theorem lineDrain : Obligations.LineDrain := by
  intro s n hs hw hp hpin
  have hd : (s.line n).state = .closing ∧ drained (s.line n) = true := ⟨hs, (drained_iff _).2 ⟨hw, hp, hpin⟩⟩
  have hleft := drainTest_lineLeft s (u := s) (n := n) rfl rfl (Flows.refl s) fun _ _ => rfl
  unfold LineLeft at hleft
  rw [if_pos ⟨hs, hw, hp, hpin⟩] at hleft
  refine ⟨settleIdle (drainTest n s), ?_, onlyIn_settleIdle s ((onlyIn_drainTest s n).mono (by simp)), fun j => ?_, ?_,
    fun o ho hb hph => endsWith_settleIdle s (hleft.2.2 o ho hb hph)⟩
  · simp only [exec, execLineDrainComplete, hd, and_self, if_true, took_eq]
  · rw [settleIdle_line]
    split
    · next h => subst h; exact hleft.1
    · next h => exact drainTest_line_other s h
  · simpa using hleft.2.1

end Sys2Proof.Machine

/-! PROOF. The host link: its settings, request permission and its return, the queue of host writes; the records that
open a line and that create, pause and resume a ring (R58, R61, R127, R128, R161, R162). -/

namespace Sys2Proof.Machine

variable (s : State)

/-! ### The queue of host writes and a mover that asks for more -/

/-- A read asked for leaves the queue of host writes as it is. -/
@[simp] theorem askRead_hostFields (w : Requester) (a : HostAddr) (n : Nat) :
    (askRead w a n s).host.writeQ = s.host.writeQ ∧ (askRead w a n s).host.waiters = s.host.waiters ∧
      (askRead w a n s).host.vectors = s.host.vectors ∧ (askRead w a n s).host.linkUp = s.host.linkUp ∧
      (askRead w a n s).host.permitted = s.host.permitted := by
  rw [askRead_reads]
  exact ⟨rfl, rfl, rfl, rfl, rfl⟩

theorem askRead_link (w : Requester) (a : HostAddr) (n : Nat) : s.link <+: (askRead w a n s).link := by
  unfold askRead
  dsimp only
  split
  · exact List.prefix_append _ _
  · exact List.prefix_rfl

@[simp] theorem askTransfers_hostFields (fuel : Nat) (m : MoverId) :
    (askTransfers fuel m s).host.writeQ = s.host.writeQ ∧ (askTransfers fuel m s).host.waiters = s.host.waiters ∧
      (askTransfers fuel m s).host.vectors = s.host.vectors ∧ (askTransfers fuel m s).host.linkUp = s.host.linkUp ∧
      (askTransfers fuel m s).host.permitted = s.host.permitted := by
  induction fuel generalizing s with
  | zero => simp [askTransfers]
  | succ fuel ih =>
    unfold askTransfers
    dsimp only
    repeat' split
    all_goals simp [ih]

theorem askTransfers_link (fuel : Nat) (m : MoverId) : s.link <+: (askTransfers fuel m s).link := by
  induction fuel generalizing s with
  | zero => exact List.prefix_rfl
  | succ fuel ih =>
    unfold askTransfers
    dsimp only
    split
    · exact List.prefix_rfl
    split
    · split
      · refine List.IsPrefix.trans ?_ (ih _)
        exact askRead_link (s.setMover m _) _ _ _
      · exact List.prefix_rfl
    · exact List.prefix_rfl

@[simp] theorem pump_hostFields (m : MoverId) :
    (pump m s).host.writeQ = s.host.writeQ ∧ (pump m s).host.waiters = s.host.waiters ∧
      (pump m s).host.vectors = s.host.vectors ∧ (pump m s).host.linkUp = s.host.linkUp ∧
      (pump m s).host.permitted = s.host.permitted := by
  simp [pump]

@[simp] theorem pumpAll_hostFields :
    (pumpAll s).host.writeQ = s.host.writeQ ∧ (pumpAll s).host.waiters = s.host.waiters ∧
      (pumpAll s).host.vectors = s.host.vectors ∧ (pumpAll s).host.linkUp = s.host.linkUp ∧
      (pumpAll s).host.permitted = s.host.permitted := by
  simp [pumpAll]

theorem pump_link (m : MoverId) : s.link <+: (pump m s).link := by
  simpa [pump] using askTransfers_link s _ m

theorem pumpAll_link : s.link <+: (pumpAll s).link :=
  ((pump_link s 0).trans (pump_link _ 1)).trans ((pump_link _ 2).trans (pump_link _ 3))

/-- A mover that asks for more changes no byte of the store and frees nothing there. -/
@[simp] theorem askStore_storeFields (m : MoverId) :
    (askStore m s).store.cells = s.store.cells ∧ (askStore m s).store.marks = s.store.marks ∧
      (askStore m s).store.busy = s.store.busy ∧ (askStore m s).store.corrected = s.store.corrected ∧
      (askStore m s).store.faultPending = s.store.faultPending ∧ (askStore m s).store.freeExts = s.store.freeExts ∧
      (askStore m s).store.state = s.store.state := by
  unfold askStore
  split <;> simp

@[simp] theorem pump_storeFields (m : MoverId) :
    (pump m s).store.cells = s.store.cells ∧ (pump m s).store.marks = s.store.marks ∧
      (pump m s).store.busy = s.store.busy ∧ (pump m s).store.corrected = s.store.corrected ∧
      (pump m s).store.faultPending = s.store.faultPending ∧ (pump m s).store.freeExts = s.store.freeExts ∧
      (pump m s).store.state = s.store.state := by
  simp [pump]

@[simp] theorem pumpAll_storeFields :
    (pumpAll s).store.cells = s.store.cells ∧ (pumpAll s).store.marks = s.store.marks ∧
      (pumpAll s).store.busy = s.store.busy ∧ (pumpAll s).store.corrected = s.store.corrected ∧
      (pumpAll s).store.faultPending = s.store.faultPending ∧ (pumpAll s).store.freeExts = s.store.freeExts ∧
      (pumpAll s).store.state = s.store.state := by
  simp [pumpAll]

theorem letIn_cons (q : List HostWrite) (y : Waiter) (ys : List Waiter) : letIn q (y :: ys) =
    match waiterWrites y with
    | none => (q, y :: ys)
    | some ws => if q.length + ws.length ≤ 64 then letIn (q ++ ws) ys else (q, y :: ys) := by
  conv_lhs => unfold letIn
  rfl

/-- The writes let in stand behind those of the queue (R161). -/
theorem letIn_prefix (q : List HostWrite) (xs : List Waiter) : q <+: (letIn q xs).1 := by
  induction xs generalizing q with
  | nil => exact List.prefix_rfl
  | cons x xs ih =>
    rw [letIn_cons]
    split
    · exact List.prefix_rfl
    · split
      · exact (List.prefix_append _ _).trans (ih _)
      · exact List.prefix_rfl

/-- Settles O19: the place goes to the waiter at the front, and the movers' requests leave the queue alone. -/
theorem hostWriteIssue : Obligations.HostWriteIssue := by
  intro s x rest hq hup hperm
  let r := letIn rest s.host.waiters
  let u : State := { (s.setHost { s.host with writeQ := r.1, waiters := r.2 }) with link := s.link ++ [.write x] }
  have hexec : exec .hostWriteIssue s = took (pumpAll u) := by
    simp only [exec, execHostWriteIssue, hq, canIssue, hup, hperm, Bool.and_self, if_true, u, r]
  have hu : OnlyIn [.hostPort, .movers, .storeController] s u := ⟨rfl, rfl, fun b hb => by cases b <;> simp_all [Same, u]⟩
  refine ⟨settleIdle (pumpAll u), hexec, onlyIn_settleIdle s (hu.trans (onlyIn_pumpAll u)), ?_, by simp [u], fun hw => ?_,
    fun y ys hw => ?_⟩
  · obtain ⟨later, hlater⟩ := pumpAll_link u
    refine ⟨later, ?_⟩
    rw [show (settleIdle (pumpAll u)).link = (pumpAll u).link by simp, ← hlater]
    simp [u]
  · simp [u, r, hw, letIn]
  · simp only [settleIdle_hostFields, pumpAll_hostFields]
    have hr : r = letIn rest (y :: ys) := by simp only [r, hw]
    constructor
    · intro ws hws
      rw [letIn_cons, hws] at hr
      dsimp only at hr
      split
      · next hfit =>
        rw [if_pos hfit] at hr
        obtain ⟨later, hlater⟩ := letIn_prefix (rest ++ ws) ys
        exact ⟨later, by simp only [u, State.setHost_host, hr, hlater]⟩
      · next hfit =>
        rw [if_neg hfit] at hr
        simp [u, hr]
    · intro hws
      rw [letIn_cons, hws] at hr
      refine ⟨by simp [u, hr], by simp [u, hr], fun count => ?_⟩
      simp [hasPlace, u, hr, Config.writeQueue]

/-! ### The link's settings, request permission, the link's return -/

/-- A write handed over with no waiter before it joins the queue while it fits (R161). -/
theorem handOver_joins {x : Waiter} {ws : List HostWrite} (hx : waiterWrites x = some ws) (hw : s.host.waiters = [])
    (hfit : s.host.writeQ.length + ws.length ≤ 64) :
    (handOver x s).host.writeQ = s.host.writeQ ++ ws ∧ (handOver x s).host.waiters = [] := by
  unfold handOver
  rw [hw, List.nil_append, letIn_cons, hx]
  simp [hfit, letIn]

/-- Otherwise it waits (R161). -/
theorem handOver_waits {x : Waiter} {ws : List HostWrite} (hx : waiterWrites x = some ws) (hw : s.host.waiters = [])
    (hfit : ¬ s.host.writeQ.length + ws.length ≤ 64) :
    (handOver x s).host.writeQ = s.host.writeQ ∧ (handOver x s).host.waiters = [x] := by
  unfold handOver
  rw [hw, List.nil_append, letIn_cons, hx]
  simp [hfit]

/-- Every register but STATUS's quiescence bit reads from what the link's events leave alone (R163). -/
theorem regRead_linkUp (b : Bool) (reads : List HostRead) (link : List LinkRequest) (o : Nat) :
    regRead { (s.setHost { s.host with linkUp := b, reads := reads }) with link := link } o = regRead s o := rfl

theorem regRead_settleIdle (o : Nat) : regRead (settleIdle s) o = regRead s o := by
  have hstatus : statusWord (settleIdle s) = statusWord s := by simp [statusWord, linesRetained]
  simp only [regRead, hstatus, settleIdle_hostFields, settleIdle_ring, settleIdle_respRing]

/-- A change of permission, or the link's return, seen as one (R161, R173). -/
theorem permission_spec (up allowed : Bool) (requests : HostRead → List LinkRequest)
    (hreq : ∀ x, requests x = if x.addr.toNat + x.len ≤ 2 ^ 64 then [.read x.addr x.len]
      else [.read x.addr (2 ^ 64 - x.addr.toNat), .read 0 (x.len - (2 ^ 64 - x.addr.toNat))])
    {u t : State} (hu : u = s.setHost { s.host with linkUp := up, permitted := allowed })
    (ht : t = settleIdle (if allowed then issueReads u else u)) :
    OnlyIn [.hostPort] s t ∧ t.host.linkUp = up ∧ t.host.permitted = allowed ∧ t.host.writeQ = s.host.writeQ ∧
      t.host.waiters = s.host.waiters ∧
      if allowed = true then
        t.host.reads = s.host.reads.map (fun x => { x with issued := some (x.issued.getD s.now) }) ∧
          t.link = s.link ++ (s.host.reads.filter fun x => x.issued.isNone).flatMap requests
      else t.host.reads = s.host.reads ∧ t.link = s.link := by
  have hrequests : requests = readRequests := by
    funext x
    rw [hreq, readRequests, splitAddr]
    split <;> rfl
  have honly : OnlyIn [.hostPort] s u := hu ▸ onlyIn_setHost s _
  subst hrequests
  cases allowed with
  | true =>
    simp only [if_true] at ht ⊢
    refine ⟨ht ▸ onlyIn_settleIdle s (honly.trans (onlyIn_issueReads u)), ?_⟩
    subst ht hu
    simp [issueReads]
  | false =>
    simp only [Bool.false_eq_true, if_false] at ht ⊢
    refine ⟨ht ▸ onlyIn_settleIdle s honly, ?_⟩
    subst ht hu
    simp

/-- Settles O18: setting by setting, and permission and the link's return as one. -/
theorem linkEvents : Obligations.LinkEvents := by
  refine ⟨fun s x hup => ?_, fun s c allowed requests hc hreq => ?_, fun s => rfl, fun s hdown => ?_⟩
  · have honly : OnlyIn [.hostPort] s (configureMessages x s) := by
      cases x with
      | mask r b =>
        simp only [configureMessages, setMask]
        split
        · exact onlyIn_setHost s _
        · split
          · exact (onlyIn_setHost s _).trans (onlyIn_sendMessage _ r)
          · exact onlyIn_setHost s _
      | address r a => exact onlyIn_setHost s _
      | data r v => exact onlyIn_setHost s _
      | enable b => exact onlyIn_setHost s _
    have hlink : (configureMessages x s).link = s.link := by
      cases x with
      | mask r b => simp only [configureMessages, setMask]; split <;> [rfl; (split <;> simp)]
      | address r a => rfl
      | data r v => rfl
      | enable b => rfl
    refine ⟨settleIdle (configureMessages x s), by simp only [exec, execMessageConfiguration, hup, if_true, took_eq],
      onlyIn_settleIdle s honly, by simp [hlink], ?_⟩
    cases x with
    | address r a => simp [configureMessages]
    | data r v => simp [configureMessages]
    | enable b => simp [configureMessages]
    | mask r b =>
      cases b with
      | true => simp [configureMessages, setMask]
      | false =>
        obtain ⟨v, hv⟩ : ∃ v, v = s.host.vectors.get r := ⟨_, rfl⟩
        obtain ⟨u, hu⟩ : ∃ u, u = s.setHost { s.host with
            vectors := s.host.vectors.set r { v with masked := false, pending := false } } := ⟨_, rfl⟩
        have hc : configureMessages (.mask r false) s = if v.pending then sendMessage r u else u := by
          subst hu hv
          rfl
        have huhost : u.host.vectors = s.host.vectors.set r { v with masked := false, pending := false } ∧
            u.host.msgEnable = s.host.msgEnable ∧ u.host.writeQ = s.host.writeQ ∧ u.host.waiters = s.host.waiters := by
          subst hu
          exact ⟨rfl, rfl, rfl, rfl⟩
        obtain ⟨hvec, hen, hq, hwait⟩ := huhost
        simp only [settleIdle_hostFields, hc, ← hv]
        cases hp : v.pending with
        | false =>
          simp only [Bool.false_eq_true, if_false]
          exact ⟨hvec, hen, fun _ => hq, fun h => h.elim⟩
        | true =>
          simp only [if_true]
          cases he : s.host.msgEnable with
          | false =>
            rw [show sendMessage r u = u by simp [sendMessage, hen, he]]
            exact ⟨hvec, hen.trans he, fun h => Bool.noConfusion h, fun _ h => Bool.noConfusion h⟩
          | true =>
            have hsend : sendMessage r u = handOver (.message ⟨.message r, v.addr, leBytes 4 v.data.toNat⟩) u := by
              simp [sendMessage, hen, he, hvec]
            rw [hsend]
            refine ⟨hvec, hen.trans he, fun h => Bool.noConfusion h, fun _ _ hw hlen => ?_⟩
            rw [← hq] at hlen ⊢
            exact (handOver_joins u (ws := [_]) rfl (hwait.trans hw) hlen).1
  · rcases hc with ⟨granted, rfl, hup, rfl⟩ | ⟨rfl, hdown, rfl⟩
    · obtain ⟨h1, h2, h3, h4, h5, h6⟩ := permission_spec s true allowed requests hreq rfl rfl
      have hself : { s.host with linkUp := true, permitted := allowed } = { s.host with permitted := allowed } := by
        rw [← hup]
      rw [hself] at h1 h2 h3 h4 h5 h6
      exact ⟨_, by simp only [exec, execRequestPermissionChange, hup, if_true, took_eq], h1, h2, h3, h4, h5, h6⟩
    · have h := permission_spec s true s.host.permitted requests hreq rfl rfl
      exact ⟨_, by simp only [exec, execLinkReturn, hdown, Bool.false_eq_true, if_false, took_eq]; rfl, h⟩
  · obtain ⟨h1, h2, -, h4, -⟩ := permission_spec s true s.host.permitted _ (fun _ => rfl) rfl rfl
    refine ⟨_, by simp only [exec, execLinkReturn, hdown, Bool.false_eq_true, if_false, took_eq]; rfl, h1, h2, ?_, h4,
      fun o => ?_⟩
    · simp only [settleIdle_hostFields]
      split <;> rfl
    · rw [regRead_settleIdle]
      split
      · exact regRead_linkUp s true _ _ o
      · exact regRead_linkUp s true s.host.reads s.link o

end Sys2Proof.Machine

/-! PROOF. The records that open a line, change its settings, and create, pause and resume a ring (R15, R58, R61, R127,
R128, R134). -/

namespace Sys2Proof.Machine

variable {s : State}

/-! ### Ends behind a change of a ring or a response ring -/

/-- The end of an operation after a change that leaves its context, its ring's response ring and that ring's state as
they were. -/
theorem endsWith_finish_at {u : State} {c : CtxId} (hc : u.ctx c = s.ctx c)
    (hr : ∀ o, s.ctx c = some o → (u.ring o.ring).resp = (s.ring o.ring).resp ∧
      (u.respRing (s.ring o.ring).resp).state = (s.respRing (s.ring o.ring).resp).state)
    (st : Status) (p a : Nat) : EndsWith s c ⟨st, p, a⟩ (finish c st p a u) := by
  intro o ho
  have h := endsWith_finish u c st p a o (hc.trans ho)
  rwa [(hr o ho).1, (hr o ho).2] at h

variable (s)

/-- A ring that is not the operation's own keeps its whole entry when the operation ends. -/
theorem finish_ring_other {c : CtxId} {o : Operation} (ho : s.ctx c = some o) (st : Status) (p a : Nat) {k : RingId}
    (hk : k ≠ o.ring) : (finish c st p a s).ring k = s.ring k := by
  by_cases ha : (s.respRing (s.ring o.ring).resp).state = .active
  · rw [finish_active s st p a ho ha]; simp
  · rw [finish_discarded s st p a ho ha, freeCtx_eq _ (State.setCtx_same s c _)]
    simp [hk]

theorem settled_finish_ready (c : CtxId) (st : Status) (p a : Nat) :
    (settleIdle (finish c st p a s)).sched.ready = s.sched.ready := by simp

/-! ### CREATE_RING, PAUSE_RING, RESUME_RING -/

/-- A control record that replaces one work ring's entry, or leaves it, and ends (R58, R61). -/
theorem ringRecord_spec {c : CtxId} {o : Operation} {k : RingId} (ho : s.ctx c = some o) (hring : o.ring = 0) (hk : k ≠ 0)
    (x : CmdRing) (ok : Prop) [Decidable ok] {t : State}
    (ht : t = settleIdle (if ok then finish c .ok 0 0 (s.setRing k x) else finish c .ringBusy 0 0 s)) :
    OnlyIn [.ringFetcher, .scheduler, .responseUnit] s t ∧ (∀ j, j ≠ k → j ≠ 0 → t.ring j = s.ring j) ∧
      (∀ d, d ≠ c → t.ctx d = s.ctx d) ∧
      if ok then EndsWith s c ⟨.ok, 0, 0⟩ t ∧ t.ring k = x
      else EndsWith s c ⟨.ringBusy, 0, 0⟩ t ∧ t.ring k = s.ring k := by
  subst ht
  by_cases h : ok
  · simp only [h, if_true]
    have hends : EndsWith s c ⟨.ok, 0, 0⟩ (finish c .ok 0 0 (s.setRing k x)) := 
      endsWith_finish_at (s := s) (u := s.setRing k x) (c := c) rfl (fun q hq => by
        obtain rfl : o = q := by simpa [ho] using hq
        exact ⟨by rw [State.setRing_other _ _ _ _ (by rw [hring]; exact Ne.symm hk)], rfl⟩) .ok 0 0
    refine ⟨onlyIn_settleIdle s (((onlyIn_setRing s k x).mono (by simp)).trans ((onlyIn_finish _ _ _ _ _).mono (by simp))),
      fun j hj h0 => ?_, fun d hd => ?_, endsWith_settleIdle s hends, ?_⟩
    · rw [settleIdle_ring, finish_ring_other (s.setRing k x) ho _ _ _ (by rw [hring]; exact h0), State.setRing_other _ _ _ _ hj]
    · rw [settleIdle_ctx, finish_other _ _ _ _ hd, State.setRing_ctx]
    · rw [settleIdle_ring, finish_ring_other (s.setRing k x) ho _ _ _ (by rw [hring]; exact hk), State.setRing_same]
  · simp only [h, if_false]
    have hends := onlyEnds_finish s c .ringBusy 0 0
    refine ⟨hends.only, fun j _ h0 => ?_, hends.others, hends.ends, ?_⟩
    · rw [settleIdle_ring, finish_ring_other s ho _ _ _ (by rw [hring]; exact h0)]
    · rw [settleIdle_ring, finish_ring_other s ho _ _ _ (by rw [hring]; exact hk)]

/-- Settles O51: each record replaces its ring's entry or leaves it. -/
theorem ringControl : Obligations.RingControl := by
  constructor
  · intro s c o k logSize prio window r base hstart ho hring hk
    refine ⟨_, ?_, ringRecord_spec s ho hring hk (createdRing logSize prio window r base (s.ring k))
      ((s.ring k).state = .disabled ∧ (s.respRing r).state = .active) rfl⟩
    simp only [exec, execCreateRing, hstart]
    rfl
  · intro s c o k cmd b was becomes hcmd hstart ho hring hk
    have hexec : exec cmd s = took (switchRing c k was becomes s) := by
      rcases hcmd with ⟨rfl, rfl, rfl, rfl⟩ | ⟨rfl, rfl, rfl, rfl⟩
      · simp only [exec, execPauseRing, hstart]
      · simp only [exec, execResumeRing, hstart]
    exact ⟨_, hexec, ringRecord_spec s ho hring hk { s.ring k with state := becomes } ((s.ring k).state = was) rfl⟩

/-! ### SET_LINE -/

theorem headInPhase_cons {n : LineId} {x : Writer} {xs : List Writer} (h : (s.line n).writers = x :: xs) (p : Phase) :
    headInPhase n p s = if s.inPhase x.ctx p then some x.ctx else none := by
  unfold headInPhase
  rw [h]

theorem headInPhase_nil {n : LineId} (h : (s.line n).writers = []) (p : Phase) : headInPhase n p s = none := by
  unfold headInPhase
  rw [h]

theorem headInPhase_some {n : LineId} {p : Phase} {c : CtxId} (h : headInPhase n p s = some c) :
    s.inPhase c p = true ∧ ∃ x ∈ (s.line n).writers, x.ctx = c := by
  cases hw : (s.line n).writers with
  | nil => rw [headInPhase_nil s hw] at h; cases h
  | cons x xs =>
    rw [headInPhase_cons s hw] at h
    split at h
    · cases h; exact ⟨by assumption, x, by simp, rfl⟩
    · cases h

/-- A change of policy moves the writer at the head of the queue between READY and GUARD_WAIT (R13, R15). -/
structure Repoliced (s : State) (n : LineId) (l : Line) (t : State) : Prop where
  only : OnlyIn [.scheduler, .lineTable] s t
  line : t.line n = l
  lines : ∀ j, j ≠ n → t.line j = s.line j
  sameOp : ∀ d, SameOp d s t

theorem Repoliced.flows {n : LineId} {l : Line} {t : State} (h : Repoliced s n l t) : Flows s t :=
  .of_same (congrArg RingFetcher.rings (h.only.2.2 .ringFetcher (by simp))) (h.only.2.2 .responseUnit (by simp))

theorem repoliced_setLine (n : LineId) (l : Line) : Repoliced s n l (s.setLine n l) :=
  ⟨(onlyIn_setLine s n l).mono (by simp), State.setLine_same s n l, fun j hj => State.setLine_other s n j l hj,
    fun _ => .of_eq rfl⟩

variable {s}

theorem Repoliced.makeReady {n : LineId} {l : Line} {u : State} (h : Repoliced s n l u) (c : CtxId) :
    Repoliced s n l (makeReady c u) :=
  ⟨h.only.trans ((onlyIn_makeReady u c).mono (by simp)), by rw [makeReady_line, h.line],
    fun j hj => by rw [makeReady_line, h.lines j hj], fun d => (h.sameOp d).trans (sameOp_makeReady u c d)⟩

/-- A READY writer goes back to GUARD_WAIT (R15). -/
theorem Repoliced.backToGuard {n : LineId} {l : Line} {u : State} (h : Repoliced s n l u) (c : CtxId) :
    Repoliced s n l ((leaveReady c u).setPhase c .guardWait) :=
  ⟨h.only.trans (((onlyIn_setReady u _).mono (by simp)).trans ((onlyIn_setPhase _ c _).mono (by simp))),
    by rw [← h.line]; simp [State.line], fun j hj => by rw [← h.lines j hj]; simp [State.line],
    fun d => (h.sameOp d).trans (sameOp_setPhase (leaveReady c u) c d _)⟩

/-- What such a change leaves when its SET_LINE has ended. -/
theorem Repoliced.ended {n : LineId} {l : Line} {u : State} (h : Repoliced s n l u) (c : CtxId) (w : Nat) :
    OnlyIn [.ringFetcher, .scheduler, .lineTable, .responseUnit] s (settleIdle (finish c .ok w 0 u)) ∧
      (∀ j, j ≠ n → (settleIdle (finish c .ok w 0 u)).line j = s.line j) ∧
      EndsWith s c ⟨.ok, w, 0⟩ (settleIdle (finish c .ok w 0 u)) ∧ (settleIdle (finish c .ok w 0 u)).line n = l := by
  refine ⟨onlyIn_settleIdle s ((h.only.mono (by simp)).trans ((onlyIn_finish u _ _ _ _).mono (by simp))), fun j hj => ?_,
    endsWith_settleIdle s ((h.flows s).endsWith (h.sameOp c) .ok w 0), ?_⟩
  · rw [settleIdle_line, finish_line, h.lines j hj]
  · rw [settleIdle_line, finish_line, h.line]

variable (s)

theorem repoliced_freeRun (n : LineId) :
    Repoliced s n { s.line n with policy := .freeRunning } (freeRun n s) := by
  unfold freeRun
  dsimp only
  split
  · exact repoliced_setLine s n _
  · exact (repoliced_setLine s n _).makeReady _

theorem repoliced_guardNow (n : LineId) : Repoliced s n { s.line n with policy := .guarded } (guardNow n s) := by
  unfold guardNow
  dsimp only
  split
  · exact repoliced_setLine s n _
  · split
    · exact repoliced_setLine s n _
    · exact (repoliced_setLine s n _).backToGuard _

/-- The change to FREE_RUNNING releases a writer in GUARD_WAIT (R13, R15). -/
theorem freeRun_releases {n : LineId} {x : Writer} {xs : List Writer} (hw : (s.line n).writers = x :: xs)
    (hp : s.inPhase x.ctx .guardWait = true) :
    (freeRun n s).inPhase x.ctx .ready = true ∧ (freeRun n s).sched.ready = s.sched.ready ++ [x.ctx] := by
  obtain ⟨o, ho, -⟩ := (inPhase_iff s _ _).1 hp
  have hfree : freeRun n s = makeReady x.ctx (s.setLine n { s.line n with policy := .freeRunning }) := by
    simp only [freeRun, headInPhase_cons s hw, hp, if_true]
  rw [hfree]
  refine ⟨(inPhase_iff _ _ _).2 ⟨{ o with phase := .ready }, ?_, rfl⟩, rfl⟩
  rw [makeReady_ctx, if_pos rfl, State.setLine_ctx, ho]
  rfl

/-- The change to GUARDED sends a READY writer whose guard check fails back to GUARD_WAIT (R15). -/
theorem guardNow_checks {n : LineId} {x : Writer} {xs : List Writer} (hw : (s.line n).writers = x :: xs)
    (hp : s.inPhase x.ctx .ready = true) :
    if guardPasses (s.line n) = true then
      (guardNow n s).ctx x.ctx = s.ctx x.ctx ∧ (guardNow n s).sched.ready = s.sched.ready
    else (guardNow n s).inPhase x.ctx .guardWait = true ∧ x.ctx ∉ (guardNow n s).sched.ready := by
  obtain ⟨o, ho, -⟩ := (inPhase_iff s _ _).1 hp
  let u := s.setLine n { s.line n with policy := .guarded }
  have hguard : guardNow n s = if guardPasses (u.line n) then u else (leaveReady x.ctx u).setPhase x.ctx .guardWait := by
    simp only [guardNow, headInPhase_cons s hw, hp, if_true, u]
  have hpass : guardPasses (u.line n) = guardPasses (s.line n) := by
    rw [State.setLine_same]
    rfl
  rw [hguard, hpass]
  split
  · exact ⟨rfl, rfl⟩
  · refine ⟨(inPhase_iff _ _ _).2 ⟨{ o with phase := .guardWait }, ?_, rfl⟩, by simp [u]⟩
    rw [setPhase_ctx, if_pos rfl, leaveReady_ctx, State.setLine_ctx, ho]
    rfl

/-- SET_LINE on an OPEN line: its lap settings are taken, and the policy at once or held (R15, R134). -/
theorem setLineSettings_same {n : LineId} (c : CtxId) {policy : Policy} (lap : LapSetting)
    (ho : ¬(s.line n).state ≠ .opened) (hp : policy = (s.line n).policy) : setLineSettings n c policy lap s =
      finish c .ok (s.line n).w 0 (s.setLine n { s.line n with lap := lap }) := by
  simp only [setLineSettings, ho, hp, if_false, if_true]

theorem setLineSettings_free {n : LineId} (c : CtxId) (lap : LapSetting) (ho : ¬(s.line n).state ≠ .opened)
    (hp : ¬Policy.freeRunning = (s.line n).policy) : setLineSettings n c .freeRunning lap s =
      finish c .ok (s.line n).w 0 (freeRun n (s.setLine n { s.line n with lap := lap })) := by
  simp only [setLineSettings, ho, hp, if_false]

theorem setLineSettings_guarded {n : LineId} (c : CtxId) (lap : LapSetting) (ho : ¬(s.line n).state ≠ .opened)
    (hp : ¬Policy.guarded = (s.line n).policy) {s1 : State} (h1 : s1 = s.setLine n { s.line n with lap := lap }) :
    setLineSettings n c .guarded lap s =
      if mustHold n s1 then (s1.setLine n { s1.line n with held := true }).setPhase c .acting
      else finish c .ok (s.line n).w 0 (guardNow n s1) := by
  simp only [setLineSettings, ho, hp, if_false, h1]

/-- Taking other lap settings changes nothing a held change depends on. -/
theorem mustHold_setLap (n : LineId) (lap : LapSetting) :
    mustHold n (s.setLine n { s.line n with lap := lap }) = mustHold n s := by
  unfold mustHold headInPhase
  rw [State.setLine_same]
  rfl

/-- A held change that takes hold, whole (R15). -/
theorem applyHeld_of_held {n : LineId} (h : (s.line n).held = true) : applyHeld n s =
    if holdsSetLine n s then
      finish 0 .ok (s.line n).w 0 (s.setLine n { s.line n with policy := .guarded, held := false })
    else s.setLine n { s.line n with policy := .guarded, held := false } := by
  simp only [applyHeld, h, if_true]

/-- An operation that has ended is in no phase but DONE. -/
theorem finish_inPhase (c : CtxId) (st : Status) (a b : Nat) {p : Phase} (hp : p ≠ .done) :
    (finish c st a b s).inPhase c p = false := by
  rw [Bool.eq_false_iff]
  intro h
  obtain ⟨q, hq, hqp⟩ := (inPhase_iff _ _ _).1 h
  cases ho : s.ctx c with
  | none => simp [finish, ho] at hq
  | some o =>
    by_cases ha : (s.respRing (s.ring o.ring).resp).state = .active
    · rw [finish_active s st a b ho ha] at hq
      simp only [State.setPosts_ctx, State.setCtx_same, Option.some.injEq] at hq
      subst hq
      exact hp hqp.symm
    · rw [finish_discarded s st a b ho ha, freeCtx_same] at hq
      cases hq

end Sys2Proof.Machine

namespace Sys2Proof
open Machine

/-- Settles O47: by R127's checks in their order. -/
theorem openLine : Obligations.OpenLine := by
  intro s c n channels policy lap C hstart
  let u := Machine.openLine n c channels policy lap C s
  refine ⟨settleIdle u, by simp only [exec, execOpenLine, hstart, took_eq, u], ?_⟩
  have fails : ∀ {st p a}, u = finish c st p a s → OnlyEnds s c ⟨st, p, a⟩ (settleIdle u) :=
    fun h => h ▸ onlyEnds_finish s c _ _ _
  by_cases h1 : (s.line n).state ≠ .free
  · have h := fails (if_pos h1)
    rw [if_pos h1]
    exact ⟨h.only.mono (by simp), fun j _ => h.line j, h.others, by rw [h.store], h.ends, h.lines, h.store⟩
  rw [if_neg h1]
  by_cases h2 : s.store.state = .fault
  · have h := fails ((if_neg h1).trans (if_pos h2))
    rw [if_pos h2]
    exact ⟨h.only.mono (by simp), fun j _ => h.line j, h.others, by rw [h.store], h.ends, h.lines, h.store⟩
  rw [if_neg h2]
  cases halloc : allocate (blocksNeeded C channels) s.store.freeExts with
  | none =>
    have h : OnlyEnds s c ⟨.noSpace, 0, blocksNeeded C channels⟩ (settleIdle u) :=
      fails (by simp only [u, Machine.openLine, h1, h2, halloc, if_false])
    exact ⟨h.only.mono (by simp), fun j _ => h.line j, h.others, by rw [h.store], h.ends, h.lines, h.store⟩
  | some r =>
    obtain ⟨taken, rest⟩ := r
    let v := (s.setStore { s.store with freeExts := rest }).setLine n (openedLine channels policy lap C taken)
    have hu : u = finish c .ok 0 taken.length v := by simp only [u, Machine.openLine, h1, h2, halloc, if_false, v]
    have hflows : Flows s v := (flows_setStore s _).trans (flows_setLine _ n _)
    rw [hu]
    refine ⟨onlyIn_settleIdle s ((((onlyIn_setStore s _).mono (by simp)).trans ((onlyIn_setLine _ n _).mono (by simp))).trans
      ((onlyIn_finish v _ _ _ _).mono (by simp))), fun j hj => ?_, fun d hd => ?_, by simp [v],
      endsWith_settleIdle s (hflows.endsWith (.of_eq rfl) .ok 0 taken.length), by simp [v], ?_⟩
    · rw [settleIdle_line, finish_line, State.setLine_other _ _ _ _ hj, State.setStore_line]
    · rw [settleIdle_ctx, finish_other _ _ _ _ hd]
      rfl
    · rw [settleIdle_line, finish_line, State.setLine_same]
      rfl

/-- Settles O50: by the policy asked for and whether the change is held; a held change takes hold as the writer's end
makes it. -/
theorem setLine : Obligations.SetLine := by
  constructor
  · intro s c n policy lap hold hstart hhold hne
    obtain ⟨o, ho, -⟩ := nextStart_body s hstart
    let u := setLineSettings n c policy lap s
    let s1 := s.setLine n { s.line n with lap := lap }
    have hs1 : s1.line n = { s.line n with lap := lap } := State.setLine_same s n _
    have lapped : Repoliced s n { s.line n with lap := lap } s1 := repoliced_setLine s n _
    have overlap : ∀ {l v}, Repoliced s1 n l v → Repoliced s n l v := fun h =>
      ⟨(lapped.only).trans h.only, h.line, fun j hj => (h.lines j hj).trans (lapped.lines j hj),
        fun d => (lapped.sameOp d).trans (h.sameOp d)⟩
    have hmust : mustHold n s1 = hold := by
      rw [mustHold_setLap, Bool.eq_iff_iff, mustHold_iff, hhold]
    refine ⟨settleIdle u, by simp only [exec, execSetLine, hstart, took_eq, u], ?_⟩
    by_cases h1 : (s.line n).state ≠ .opened
    · have h : OnlyEnds s c ⟨.lineBusy, 0, lineCode (s.line n).state⟩ (settleIdle u) := by
        rw [show u = finish c .lineBusy 0 (lineCode (s.line n).state) s from if_pos h1]
        exact onlyEnds_finish s c _ _ _
      rw [if_pos h1]
      exact ⟨h.only.mono (by simp), fun j _ => h.line j, h.ends, h.lines⟩
    rw [if_neg h1]
    by_cases h2 : policy = (s.line n).policy
    · have hbase : u = _ := setLineSettings_same s c lap h1 h2
      obtain ⟨g1, g2, g3, g4⟩ := lapped.ended c (s.line n).w
      rw [if_pos h2, hbase]
      exact ⟨g1, g2, g3, g4, by simp⟩
    rw [if_neg h2]
    cases policy with
    | freeRunning =>
      obtain ⟨g1, g2, g3, g4⟩ := (overlap (repoliced_freeRun s1 n)).ended c (s.line n).w
      have hbase : u = _ := setLineSettings_free s c lap h1 h2
      rw [hs1] at g4
      rw [if_neg (by simp), hbase]
      refine ⟨g1, g2, g3, g4, fun x xs hw => ⟨fun _ hp => ?_, fun hp => nomatch hp⟩⟩
      obtain ⟨hphase, hready⟩ := freeRun_releases s1 (n := n) (by rw [hs1]; exact hw) (by exact hp)
      have hx : x.ctx ≠ c := hne x (by rw [hw]; simp)
      refine ⟨?_, (settled_finish_ready _ _ _ _ _).trans hready⟩
      rw [settleIdle_inPhase, inPhase_congr (freeRun n s1) (finish_other _ _ _ _ hx), hphase]
    | guarded =>
      have hbase : u = _ := setLineSettings_guarded s c lap h1 h2 (s1 := s1) rfl
      rw [hmust] at hbase
      by_cases h3 : hold = true
      · rw [if_pos h3] at hbase
        rw [if_pos ⟨rfl, h3⟩, hbase, hs1]
        refine ⟨onlyIn_settleIdle s ((lapped.only.mono (by simp)).trans (((onlyIn_setLine s1 n _).mono (by simp)).trans
          ((onlyIn_setPhase _ c _).mono (by simp)))), fun j hj => ?_, ?_, by simp [s1], { o with phase := .acting }, ?_, rfl⟩
        · simp [State.line, State.setLine, s1, hj]
        · simp [State.line, State.setLine, s1]
        · rw [settleIdle_ctx, setPhase_ctx, if_pos rfl, State.setLine_ctx, State.setLine_ctx, ho]
          rfl
      · rw [if_neg h3] at hbase
        obtain ⟨g1, g2, g3, g4⟩ := (overlap (repoliced_guardNow s1 n)).ended c (s.line n).w
        rw [hs1] at g4
        rw [if_neg (fun h => h3 h.2), hbase]
        refine ⟨g1, g2, g3, g4, fun x xs hw => ⟨fun hp => (nomatch hp), fun _ hp => ?_⟩⟩
        have hx : x.ctx ≠ c := hne x (by rw [hw]; simp)
        have hcheck := guardNow_checks s1 (n := n) (x := x) (xs := xs) (by rw [hs1]; exact hw) (by exact hp)
        rw [show guardPasses (s1.line n) = guardPasses (s.line n) by rw [hs1]; rfl] at hcheck
        rw [settleIdle_inPhase, inPhase_congr (guardNow n s1) (finish_other _ _ _ _ hx), settleIdle_ctx,
          finish_other _ _ _ _ hx]
        rwa [settled_finish_ready]
  · intro s n hheld hnot
    let t := applyHeld n s
    let u := match headInPhase n .ready t with
      | none => t
      | some c => if guardPasses (t.line n) then t else (leaveReady c t).setPhase c .guardWait
    have hexec : exec (.setLineHeldComplete n) s = took u := by
      have hmust : mustHold n s = false := Bool.eq_false_iff.2 (mt (mustHold_iff n s).1 hnot)
      simp only [exec, execSetLineHeldComplete, hheld, hmust, and_self, if_true] <;> rfl
    have hlines : ∀ j, t.line j = if j = n then { s.line n with policy := .guarded, held := false } else s.line j := by
      intro j
      split
      · next h => subst h; simp [t, applyHeld_line, hheld]
      · next h => exact applyHeld_line_other s h
    have hu : u = t ∨ ∃ c, t.inPhase c .ready = true ∧ u = (leaveReady c t).setPhase c .guardWait := by
      simp only [u]
      split
      · exact .inl rfl
      · next c hc =>
        split
        · exact .inl rfl
        · exact .inr ⟨c, (headInPhase_some t hc).1, rfl⟩
    have honly : OnlyIn [.ringFetcher, .scheduler, .lineTable, .responseUnit] s t := (onlyIn_applyHeld s n).mono (by simp)
    have hrest : OnlyIn [.scheduler] t u ∧ (∀ j, u.line j = t.line j) ∧ Flows t u := by
      rcases hu with h | ⟨c, -, h⟩
      · rw [h]; exact ⟨onlyIn_refl t _, fun _ => rfl, Flows.refl t⟩
      · rw [h]
        exact ⟨(onlyIn_setReady t _).trans (onlyIn_setPhase _ c _), fun j => by simp [State.line],
          (flows_leaveReady t c).trans (flows_setPhase _ c _)⟩
    obtain ⟨hurest, huline, huflows⟩ := hrest
    refine ⟨settleIdle u, hexec, onlyIn_settleIdle s (honly.trans (hurest.mono (by simp))), fun j => ?_,
      fun o policy lap ho hb hp => ?_⟩
    · rw [settleIdle_line, huline, hlines]
    · have hset : holdsSetLine n s = true := (holdsSetLine_iff s n).2 ⟨o, policy, lap, ho, hb, hp⟩
      have hfinish : t = finish 0 .ok (s.line n).w 0 (s.setLine n { s.line n with policy := .guarded, held := false }) := by
        rw [show t = applyHeld n s from rfl, applyHeld_of_held s hheld, if_pos hset]
      have hends : EndsWith s 0 ⟨.ok, (s.line n).w, 0⟩ t :=
        hfinish ▸ (flows_setLine s n _).endsWith (.of_eq rfl) .ok (s.line n).w 0
      refine endsWith_settleIdle s (hends.after huflows ?_)
      rcases hu with h | ⟨c, hc, h⟩
      · rw [h]
      · have hc0 : (0 : CtxId) ≠ c := by
          rintro rfl
          rw [hfinish, finish_inPhase _ _ _ _ _ (by simp)] at hc
          cases hc
        rw [h, setPhase_ctx, if_neg hc0, leaveReady_ctx]

end Sys2Proof

/-! PROOF. The end of an active writer: a commit with its walk of the park list, an abandoned write, and an access that
a store in FAULT refuses (R15, R22, R77, R82, R83, R87). -/

namespace Sys2Proof.Machine

variable (s : State)

/-! ### The head of a write queue leaves -/

/-- The state in which the head of a line's write queue has left, before the next writer is made active (R82). -/
def headGone (n : LineId) (s : State) : State := s.setLine n { s.line n with writers := (s.line n).writers.tail }

theorem leaveHead_eq (n : LineId) : leaveHead n s = activate n (applyHeld n (headGone n s)) := rfl

theorem applied_line (n : LineId) : (applyHeld n (headGone n s)).line n = headLeft (s.line n) := by
  simp [applyHeld_line, headGone, headLeft]

theorem applyHeld_ready (n : LineId) : (applyHeld n s).sched.ready = s.sched.ready := by simp

/-- Whom the end of an active writer makes READY: the next writer, if its guard check passes (R77). -/
theorem leaveHead_ready (n : LineId) :
    (leaveHead n s).sched.ready = s.sched.ready ++ nextReady (headLeft (s.line n)) := by
  rw [leaveHead_eq, activate_ready, applied_line, applyHeld_ready]
  rfl

/-- Of the contexts the end of an active writer changes the next writer's phase, and the SET_LINE's that a held change
completes (R15, R77). -/
theorem leaveHead_ctx {n : LineId} {d : CtxId} (h : d ≠ 0 ∨ holdsSetLine n s = false) : (leaveHead n s).ctx d =
    if (s.line n).writers.tail.head?.map Writer.ctx = some d then
      (s.ctx d).map fun o => { o with phase := nextPhase (headLeft (s.line n)) }
    else s.ctx d := by
  rw [leaveHead_eq, activate_ctx, applied_line, applyHeld_ctx (headGone n s) h]
  rfl

theorem leaveHead_ctx_kept {n : LineId} {d : CtxId} (h : d ≠ 0 ∨ holdsSetLine n s = false)
    (ht : (s.line n).writers.tail.head?.map Writer.ctx ≠ some d) : (leaveHead n s).ctx d = s.ctx d := by
  rw [leaveHead_ctx s h, if_neg ht]

/-- A writer other than context 0 is not the next writer's place of context 0. -/
theorem head_ne_zero {xs : List Writer} (h : ∀ y ∈ xs, y.ctx ≠ 0) : xs.head?.map Writer.ctx ≠ some 0 := by
  cases xs with
  | nil => simp
  | cons y ys => simpa using h y (by simp)

/-- What a held change has made, it has made after steps that leave its SET_LINE alone. -/
theorem HeldChangeMade.after {s : State} {n : LineId} {w : Nat} {u t : State} (h : HeldChangeMade s n w u) (hf : Flows u t)
    (h0 : holdsSetLine n s = true → t.ctx 0 = u.ctx 0) : HeldChangeMade s n w t :=
  fun hh o policy lap ho hb hp =>
    (h hh o policy lap ho hb hp).after hf (h0 ((holdsSetLine_iff s n).2 ⟨o, policy, lap, ho, hb, hp⟩))

/-- The same, seen from an earlier state. -/
theorem HeldChangeMade.before {s : State} {n : LineId} {w : Nat} {u t : State} (h : HeldChangeMade u n w t) (hf : Flows s u)
    (hh : (u.line n).held = (s.line n).held) (h0 : u.ctx 0 = s.ctx 0) : HeldChangeMade s n w t :=
  fun hs o policy lap ho hb hp => (h (hh.trans hs) o policy lap (h0.trans ho) hb hp).before hf (.of_eq h0)

/-- The end of an active writer makes a held change take hold (R15). -/
theorem leaveHead_held {n : LineId} (h : ∀ y ∈ (s.line n).writers, y.ctx ≠ 0) :
    HeldChangeMade s n (s.line n).w (leaveHead n s) := by
  intro hh o policy lap ho hb hp
  have hset : holdsSetLine n (headGone n s) = true := (holdsSetLine_iff _ n).2 ⟨o, policy, lap, ho, hb, hp⟩
  have hheld : ((headGone n s).line n).held = true := by simpa [headGone] using hh
  have hends : EndsWith s 0 ⟨.ok, (s.line n).w, 0⟩ (applyHeld n (headGone n s)) := by
    rw [applyHeld_of_held _ hheld, if_pos hset, show ((headGone n s).line n).w = (s.line n).w by simp [headGone]]
    exact ((flows_setLine s n _).trans (flows_setLine _ n _)).endsWith (.of_eq rfl) .ok _ 0
  refine hends.after (flows_activate _ n) ?_
  rw [leaveHead_eq, activate_ctx, applied_line]
  exact if_neg (head_ne_zero fun y hy => h y (List.mem_of_mem_tail hy))

/-! ### Records that contexts keep -/

/-- An operation still in context `c` has the record it had. -/
def SameBody (c : CtxId) (s t : State) : Prop := ∀ q, t.ctx c = some q → ∃ o, s.ctx c = some o ∧ q.body = o.body

variable {s}

theorem SameBody.of_eq {c : CtxId} {t : State} (h : t.ctx c = s.ctx c) : SameBody c s t :=
  fun q hq => ⟨q, h.symm.trans hq, rfl⟩

theorem SameBody.trans {c : CtxId} {u t : State} (h : SameBody c s u) (h' : SameBody c u t) : SameBody c s t := by
  intro q hq
  obtain ⟨x, hx, h1⟩ := h' q hq
  obtain ⟨o, ho, h2⟩ := h x hx
  exact ⟨o, ho, h1.trans h2⟩

theorem SameBody.closes {u : State} (h : SameBody 0 s u) {n : LineId} (hc : holdsCloseLine n u = true) :
    ∃ o, s.ctx 0 = some o ∧ o.body = some (.closeLine n) := by
  obtain ⟨q, hq, hb, -⟩ := (holdsCloseLine_iff u n).1 hc
  obtain ⟨o, ho, he⟩ := h q hq
  exact ⟨o, ho, he.symm.trans hb⟩

variable (s)

theorem sameBody_finish (c d : CtxId) (st : Status) (p a : Nat) : SameBody d s (finish c st p a s) := by
  intro q hq
  by_cases hd : d = c
  · subst hd
    cases ho : s.ctx d with
    | none => simp [finish, ho] at hq
    | some o =>
      by_cases ha : (s.respRing (s.ring o.ring).resp).state = .active
      · rw [finish_active s st p a ho ha] at hq
        simp only [State.setPosts_ctx, State.setCtx_same, Option.some.injEq] at hq
        exact ⟨o, rfl, by rw [← hq]⟩
      · rw [finish_discarded s st p a ho ha, freeCtx_same] at hq
        cases hq
  · exact ⟨q, (finish_other s st p a hd).symm.trans hq, rfl⟩

theorem sameBody_modCtx (c d : CtxId) {g : Operation → Operation} (h : ∀ o, (g o).body = o.body) :
    SameBody d s (s.modCtx c g) := by
  intro q hq
  rw [modCtx_ctx] at hq
  split at hq
  · next hd =>
    subst hd
    obtain ⟨o, ho, rfl⟩ := Option.map_eq_some_iff.1 hq
    exact ⟨o, ho, h o⟩
  · exact ⟨q, hq, rfl⟩

theorem sameBody_makeReady (c d : CtxId) : SameBody d s (makeReady c s) := sameBody_modCtx s c d fun _ => rfl

theorem sameBody_activate (n : LineId) (d : CtxId) : SameBody d s (activate n s) := by
  intro q hq
  rw [activate_ctx] at hq
  split at hq
  · obtain ⟨o, ho, rfl⟩ := Option.map_eq_some_iff.1 hq
    exact ⟨o, ho, rfl⟩
  · exact ⟨q, hq, rfl⟩

theorem sameBody_leaveHead (n : LineId) (d : CtxId) : SameBody d s (leaveHead n s) := by
  have happly : SameBody d (headGone n s) (applyHeld n (headGone n s)) := by
    unfold applyHeld
    dsimp only
    split
    · split
      · exact (SameBody.of_eq (State.setLine_ctx _ _ _ _)).trans (sameBody_finish _ 0 d _ _ _)
      · exact .of_eq rfl
    · exact .of_eq rfl
  exact ((SameBody.of_eq rfl).trans happly).trans (sameBody_activate _ n d)

/-! ### The reads a commit wakes -/

/-- A record that reads lines (R89, R107). -/
def isRead : Body → Bool
  | .tap .. | .mix .. => true
  | _ => false

/-- How a commit leaves a read it wakes, `bound` being O (R83, R97, R116). -/
def ReadWoken (s : State) (bound : Nat) (c : CtxId) (t : State) : Prop :=
  ∀ (q : Operation) (b : Body), s.ctx c = some q → q.body = some b →
    (∀ j a N wait absolute fld mask, b = .tap j a N wait absolute fld mask →
      if q.starts.headD 0 < bound then EndsWith s c ⟨.gone, bound, 2⟩ t else t.ctx c = some { q with phase := .ready }) ∧
    ∀ dest a N wait taps, b = .mix dest a N wait taps → t.ctx c = some { q with phase := .passing, stage := some (.wake 0) }

theorem ReadWoken.after {s : State} {bound : Nat} {c : CtxId} {u t : State} (h : ReadWoken s bound c u) (hf : Flows u t)
    (hc : t.ctx c = u.ctx c) : ReadWoken s bound c t := by
  intro q b hq hb
  obtain ⟨htap, hmix⟩ := h q b hq hb
  refine ⟨fun j a N wait absolute fld mask e => ?_, fun dest a N wait taps e => hc.trans (hmix dest a N wait taps e)⟩
  have := htap j a N wait absolute fld mask e
  split
  · next hg => rw [if_pos hg] at this; exact this.after hf hc
  · next hg => rw [if_neg hg] at this; exact hc.trans this

theorem ReadWoken.before {s : State} {bound : Nat} {c : CtxId} {u t : State} (h : ReadWoken u bound c t) (hf : Flows s u)
    (hc : u.ctx c = s.ctx c) : ReadWoken s bound c t := by
  intro q b hq hb
  obtain ⟨htap, hmix⟩ := h q b (hc.trans hq) hb
  refine ⟨fun j a N wait absolute fld mask e => ?_, hmix⟩
  have := htap j a N wait absolute fld mask e
  split
  · next hg => rw [if_pos hg] at this; exact this.before hf (.of_eq hc)
  · next hg => rw [if_neg hg] at this; exact this

/-- The wake of one read (R97, R116). -/
theorem wakeRead_woken (n : LineId) (c : CtxId) : ReadWoken s (oldest (s.line n)) c (wakeRead n c s) := by
  intro q b hq hb
  refine ⟨fun j a N wait absolute fld mask e => ?_, fun dest a N wait taps e => ?_⟩
  · subst e
    have hwake : wakeRead n c s = if q.starts.headD 0 < oldest (s.line n) then finish c .gone (oldest (s.line n)) 2 s
        else makeReady c s := by simp only [wakeRead, hq, hb]
    rw [hwake]
    split
    · exact endsWith_finish s _ _ _ _
    · rw [makeReady_ctx, if_pos rfl, hq]; rfl
  · subst e
    simp only [wakeRead, hq, hb, State.setCtx_same]

theorem wakeRead_ready (n : LineId) (c : CtxId) : (wakeRead n c s).sched.ready =
    s.sched.ready ++ if tapStays s (oldest (s.line n)) c then [c] else [] := by
  cases hc : s.ctx c with
  | none => simp [wakeRead, tapStays, hc]
  | some o =>
    cases hb : o.body with
    | none => simp [wakeRead, tapStays, hc, hb]
    | some b =>
      cases b
      case tap =>
        simp only [wakeRead, tapStays, hc, hb]
        split
        · next h => simp only [Nat.not_le.2 h, finish_frame, decide_false, Bool.false_eq_true, if_false, List.append_nil]
        · next h => simp only [Nat.not_lt.1 h, makeReady_ready, decide_true, if_true]
      all_goals simp [wakeRead, tapStays, hc, hb]

theorem wakeRead_rests {n : LineId} {c : CtxId} (h : ∀ q b, s.ctx c = some q → q.body = some b → isRead b = false) :
    wakeRead n c s = s := by
  unfold wakeRead
  cases hc : s.ctx c with
  | none => rfl
  | some q =>
    dsimp only
    split
    · next hb => cases h q _ hc hb
    · next hb => cases h q _ hc hb
    · rfl

theorem sameBody_wakeRead (n : LineId) (c d : CtxId) : SameBody d s (wakeRead n c s) := by
  unfold wakeRead
  cases hc : s.ctx c with
  | none => exact .of_eq rfl
  | some o =>
    dsimp only
    split
    · split
      · exact sameBody_finish s c d _ _ _
      · exact sameBody_makeReady s c d
    · intro q hq
      by_cases hd : d = c
      · subst hd
        simp only [State.setCtx_same, Option.some.injEq] at hq
        exact ⟨o, hc, by rw [← hq]⟩
      · exact ⟨q, by rwa [State.setCtx_other _ _ _ _ hd] at hq, rfl⟩
    · exact .of_eq rfl

theorem wakeRead_ctx_other {n : LineId} {c d : CtxId} (h : d ≠ c) : (wakeRead n c s).ctx d = s.ctx d := by
  unfold wakeRead
  split
  · rfl
  · split
    · split
      · rw [finish_other _ _ _ _ h]
      · rw [makeReady_ctx, if_neg h]
    · rw [State.setCtx_other _ _ _ _ h]
    · rfl

/-- The walk over given entries of a park list (R83). -/
def wakeAll (n : LineId) (xs : List Parked) (s : State) : State :=
  xs.foldl (fun t x => wakeRead n x.ctx (unpark n x.ctx t)) s

theorem commitWalk_eq (n : LineId) : commitWalk n s =
    wakeAll n ((s.line n).park.takeWhile fun x => decide (x.windowEnd ≤ (s.line n).w)) s := rfl

theorem wakeAll_cons (n : LineId) (x : Parked) (xs : List Parked) :
    wakeAll n (x :: xs) s = wakeAll n xs (wakeRead n x.ctx (unpark n x.ctx s)) := rfl

theorem flows_wake (n : LineId) (c : CtxId) : Flows s (wakeRead n c (unpark n c s)) :=
  (flows_unpark s n c).trans (flows_wakeRead _ n c)

theorem flows_wakeAll (n : LineId) (xs : List Parked) : Flows s (wakeAll n xs s) := by
  induction xs generalizing s with
  | nil => exact Flows.refl s
  | cons x xs ih => exact (flows_wake s n x.ctx).trans (ih _)

theorem onlyIn_wake (n : LineId) (c : CtxId) :
    OnlyIn [.scheduler, .lineTable, .parkTimer, .ringFetcher, .responseUnit] s (wakeRead n c (unpark n c s)) := by
  refine ((onlyIn_unpark s n c).mono (by simp)).trans ?_
  unfold wakeRead
  split
  · exact onlyIn_refl _ _
  · split
    · split
      · exact (onlyIn_finish _ _ _ _ _).mono (by simp)
      · exact (onlyIn_makeReady _ _).mono (by simp)
    · exact (onlyIn_setCtx _ _ _).mono (by simp)
    · exact onlyIn_refl _ _

theorem onlyIn_wakeAll (n : LineId) (xs : List Parked) :
    OnlyIn [.scheduler, .lineTable, .parkTimer, .ringFetcher, .responseUnit] s (wakeAll n xs s) := by
  induction xs generalizing s with
  | nil => exact onlyIn_refl s _
  | cons x xs ih => exact (onlyIn_wake s n x.ctx).trans (ih _)

/-- Of the contexts a walk changes those of the reads it takes (R83). -/
theorem wakeAll_ctx {n : LineId} {xs : List Parked} {d : CtxId}
    (h : d ∉ xs.map Parked.ctx ∨ ∀ q b, s.ctx d = some q → q.body = some b → isRead b = false) :
    (wakeAll n xs s).ctx d = s.ctx d := by
  induction xs generalizing s with
  | nil => rfl
  | cons x xs ih =>
    have hstep : (wakeRead n x.ctx (unpark n x.ctx s)).ctx d = s.ctx d := by
      rcases h with h | h
      · exact wakeRead_ctx_other _ (List.ne_of_not_mem_cons h)
      · by_cases hd : d = x.ctx
        · subst hd
          rw [wakeRead_rests _ (by exact h)]
          rfl
        · exact wakeRead_ctx_other _ hd
    rw [wakeAll_cons, ih _ ?_, hstep]
    rw [hstep]
    exact h.imp (fun h => List.not_mem_of_not_mem_cons h) id

theorem sameBody_wakeAll (n : LineId) (xs : List Parked) (d : CtxId) : SameBody d s (wakeAll n xs s) := by
  induction xs generalizing s with
  | nil => exact .of_eq rfl
  | cons x xs ih =>
    exact ((SameBody.of_eq (t := unpark n x.ctx s) rfl).trans (sameBody_wakeRead _ n x.ctx d)).trans (ih _)

theorem wakeRead_parkTimer (n : LineId) (c : CtxId) : (wakeRead n c s).parkTimer = s.parkTimer := by
  unfold wakeRead
  repeat' split
  all_goals simp

theorem wakeAll_parkTimer (n : LineId) (xs : List Parked) : (wakeAll n xs s).parkTimer =
    s.parkTimer.filter fun z => decide (z.1 ∉ xs.map Parked.ctx) := by
  induction xs generalizing s with
  | nil => simp [wakeAll]
  | cons x xs ih =>
    have hstep : (wakeRead n x.ctx (unpark n x.ctx s)).parkTimer = s.parkTimer.filter fun z => z.1 ≠ x.ctx := by
      rw [wakeRead_parkTimer]
      rfl
    rw [wakeAll_cons, ih, hstep, List.filter_filter]
    exact List.filter_congr fun z _ => by simp [Bool.and_comm]

theorem tapStays_congr {t : State} {c : CtxId} (h : t.ctx c = s.ctx c) (bound : Nat) :
    tapStays t bound c = tapStays s bound c := by
  unfold tapStays; rw [h]

/-- The entry of a line after one of its parked reads has been woken. -/
theorem woken_oldest (n : LineId) (c : CtxId) :
    oldest ((wakeRead n c (unpark n c s)).line n) = oldest (s.line n) := by
  rw [wakeRead_line, unpark_line]
  rfl

/-- Whom a walk makes READY, in the order of the park list (R83, R97). -/
theorem wakeAll_ready {n : LineId} {xs : List Parked} (h : (xs.map Parked.ctx).Nodup) :
    (wakeAll n xs s).sched.ready = s.sched.ready ++
      (xs.filter fun y => tapStays s (oldest (s.line n)) y.ctx).map Parked.ctx := by
  induction xs generalizing s with
  | nil => simp [wakeAll]
  | cons x xs ih =>
    obtain ⟨hx, hxs⟩ := List.nodup_cons.1 h
    rw [wakeAll_cons, ih _ hxs, woken_oldest, wakeRead_ready]
    have hrest : (xs.filter fun y => tapStays (wakeRead n x.ctx (unpark n x.ctx s)) (oldest (s.line n)) y.ctx) =
        xs.filter fun y => tapStays s (oldest (s.line n)) y.ctx :=
      List.filter_congr fun y hy => tapStays_congr s
        (wakeRead_ctx_other (unpark n x.ctx s) fun e : y.ctx = x.ctx => hx (e ▸ List.mem_map_of_mem hy)) _
    have hold : oldest ((unpark n x.ctx s).line n) = oldest (s.line n) := by rw [unpark_line]; rfl
    rw [hrest, hold, show tapStays (unpark n x.ctx s) (oldest (s.line n)) x.ctx = tapStays s (oldest (s.line n)) x.ctx
      from tapStays_congr s rfl _]
    rw [List.append_assoc, List.filter_cons]
    split <;> rfl

/-- How a walk leaves each read it takes (R83). -/
theorem wakeAll_woken {n : LineId} {xs : List Parked} (h : (xs.map Parked.ctx).Nodup) :
    ∀ y ∈ xs, ReadWoken s (oldest (s.line n)) y.ctx (wakeAll n xs s) := by
  induction xs generalizing s with
  | nil => intro y hy; cases hy
  | cons x xs ih =>
    obtain ⟨hx, hxs⟩ := List.nodup_cons.1 h
    intro y hy
    rw [wakeAll_cons]
    rcases List.mem_cons.1 hy with rfl | hy
    · have hwake := wakeRead_woken (unpark n y.ctx s) n y.ctx
      rw [show oldest ((unpark n y.ctx s).line n) = oldest (s.line n) by rw [unpark_line]; rfl] at hwake
      exact (hwake.before (flows_unpark s n _) rfl).after (flows_wakeAll _ n xs) (wakeAll_ctx _ (.inl hx))
    · have hrest := ih (wakeRead n x.ctx (unpark n x.ctx s)) hxs y hy
      rw [woken_oldest] at hrest
      exact hrest.before (flows_wake s n _) (wakeRead_ctx_other _ fun e : y.ctx = x.ctx => hx (e ▸ List.mem_map_of_mem hy))

/-! ### Which writer a mover carries -/

variable {s}

/-- The writer a mover carries, as the records of its end find it (R82, R87). -/
theorem movingWriter_eq {m : MoverId} {mv : Mover} {o : Operation} {b : Body} {n : LineId} {x : Writer} {rest : List Writer}
    (hm : s.mover m = some mv) (ho : s.ctx mv.ctx = some o) (hb : o.body = some b) (hd : destOf b = some n)
    (hp : o.phase = .moving) (hw : (s.line n).writers = x :: rest) (hx : x.ctx = mv.ctx) :
    movingWriter m s = some (mv, o, b, n) := by
  have hactive : isActive n mv.ctx s = true := by simp [isActive, hw, hx]
  simp only [movingWriter, hm, ho, hb, hd, hp, hactive, and_self, if_true]

/-- An operation that ends as a writer of a line is no control record (R74). -/
theorem not_control_of_dest {b : Body} {n : LineId} (h : destOf b = some n) (k : LineId) (policy : Policy)
    (lap : LapSetting) : b ≠ .setLine k policy lap ∧ b ≠ .closeLine k := by
  constructor <;> rintro rfl <;> cases h

/-- What a line was left as, seen from an earlier state. -/
theorem LineLeft.before {n : LineId} {l : Line} {u t : State} (h : LineLeft u n l t) (hf : Flows s u)
    (hs : u.store = s.store) (h0 : u.ctx 0 = s.ctx 0) : LineLeft s n l t := by
  unfold LineLeft at h ⊢
  rw [hs] at h
  split
  · next hd =>
    rw [if_pos hd] at h
    exact ⟨h.1, h.2.1, fun o ho hb hp => (h.2.2 o (h0.trans ho) hb hp).before hf (.of_eq h0)⟩
  · next hd => rwa [if_neg hd] at h

theorem LineLeft.settle {n : LineId} {l : Line} {u : State} (h : LineLeft s n l u) : LineLeft s n l (settleIdle u) :=
  h.after (settleIdle_line u n) (by simp) (flows_settleIdle u) fun _ => settleIdle_ctx u 0

theorem HeldChangeMade.settle {n : LineId} {w : Nat} {u : State} (h : HeldChangeMade s n w u) :
    HeldChangeMade s n w (settleIdle u) := h.after (flows_settleIdle u) fun _ => settleIdle_ctx u 0

theorem settleIdle_store (u : State) : (settleIdle u).store = u.store := by simp

theorem settleIdle_ready (u : State) : (settleIdle u).sched.ready = u.sched.ready := by simp

/-! ### The abandoned write -/

/-- What the end without commit of an active writer leaves (R87). -/
theorem abandonAt_spec {n : LineId} {x : Writer} {rest : List Writer} {l : Line} (r : Settled)
    (hw : (s.line n).writers = x :: rest) (hnd : ((s.line n).writers.map Writer.ctx).Nodup)
    (h0 : ∀ y ∈ (s.line n).writers, y.ctx ≠ 0)
    (hl : l = headLeft { s.line n with f := abandonedFloor (s.line n) (activeFrames (s.line n)) }) {t : State}
    (ht : t = abandonAt n x.ctx r.status r.pos r.aux s) :
    OnlyIn [.ringFetcher, .scheduler, .lineTable, .storeController, .responseUnit] s t ∧
      (∀ j, j ≠ n → t.line j = s.line j) ∧ LineLeft s n l t ∧ EndsWith s x.ctx r t ∧
      HeldChangeMade s n (s.line n).w t ∧ t.sched.ready = s.sched.ready ++ nextReady l ∧
      (∀ y ys, rest = y :: ys → t.ctx y.ctx = (s.ctx y.ctx).map fun q => { q with phase := nextPhase l }) ∧
      ∀ d, d ≠ 0 → d ≠ x.ctx → rest.head?.map Writer.ctx ≠ some d → t.ctx d = s.ctx d := by
  let v := s.setLine n { s.line n with f := abandonedFloor (s.line n) (activeFrames (s.line n)) }
  have hv : v.line n = { s.line n with f := abandonedFloor (s.line n) (activeFrames (s.line n)) } :=
    State.setLine_same s n _
  let u := leaveHead n v
  have huline : u.line n = l := by rw [leaveHead_line, hv, hl]
  have hvw : (v.line n).writers.tail = rest := by rw [hv, hw]; rfl
  have hflows : Flows s u := (flows_setLine s n _).trans (flows_leaveHead v n)
  have hend : t = finish x.ctx r.status r.pos r.aux (drainTest n u) := ht
  have hx0 : x.ctx ≠ 0 := h0 x (by simp [hw])
  have hxrest : rest.head?.map Writer.ctx ≠ some x.ctx := by
    rw [hw] at hnd
    cases rest with
    | nil => simp
    | cons y ys => simpa using fun h => (List.nodup_cons.1 hnd).1 (by simp [h])
  have hctx : ∀ d, d ≠ 0 → u.ctx d = if rest.head?.map Writer.ctx = some d then
      (s.ctx d).map fun o => { o with phase := nextPhase l } else s.ctx d := fun d hd => by
    rw [leaveHead_ctx v (.inl hd), hvw, hv, ← hl]
    rfl
  have hdrain : ∀ d, d ≠ 0 → d ≠ x.ctx → t.ctx d = u.ctx d := fun d hd hdx => by
    rw [hend, finish_other _ _ _ _ hdx, drainTest_ctx u (.inl hd)]
  have hzero : t.ctx 0 = (drainTest n u).ctx 0 := by rw [hend, finish_other _ _ _ _ (Ne.symm hx0)]
  refine ⟨?_, fun j hj => ?_, ?_, ?_, ?_, ?_, fun y ys hy => ?_, fun d hd hdx hh => ?_⟩
  · rw [hend]
    exact ((((onlyIn_setLine s n _).mono (by simp)).trans ((onlyIn_leaveHead v n).mono (by simp))).trans
      ((onlyIn_drainTest u n).mono (by simp))).trans ((onlyIn_finish _ _ _ _ _).mono (by simp))
  · rw [hend, finish_line, drainTest_line_other _ hj, leaveHead_line_other v hj, State.setLine_other _ _ _ _ hj]
  · have hleft : LineLeft s n l (drainTest n u) :=
      drainTest_lineLeft s huline (by simp [u, v]) hflows fun _ hc => by
        have hset : holdsSetLine n v = false := by
          obtain ⟨o, ho, hb, -⟩ := (holdsCloseLine_iff s n).1 hc
          refine Bool.eq_false_iff.2 fun hs => ?_
          obtain ⟨q, policy, lap, hq, hqb, -⟩ := (holdsSetLine_iff v n).1 hs
          cases hq.symm.trans ho
          cases hqb.symm.trans hb
        rw [leaveHead_ctx_kept v (.inr hset)
          (by rw [hvw]; exact head_ne_zero fun y hy => h0 y (by rw [hw]; exact List.mem_cons_of_mem _ hy))]
        rfl
    exact hleft.after (by rw [hend, finish_line]) (by rw [hend]; simp) (hend ▸ flows_finish _ _ _ _ _) fun _ => hzero
  · rw [hend]
    refine (hflows.trans (flows_drainTest u n)).endsWith (.of_eq ?_) r.status r.pos r.aux
    rw [drainTest_ctx u (.inl hx0), hctx _ hx0, if_neg hxrest]
  · have hheld : HeldChangeMade v n (v.line n).w u := leaveHead_held v fun y hy => h0 y (by rw [hv] at hy; exact hy)
    rw [hv] at hheld
    have hmade : HeldChangeMade s n (s.line n).w u := hheld.before (flows_setLine s n _) (by rw [hv]) rfl
    refine hmade.after ((flows_drainTest u n).trans (hend ▸ flows_finish _ _ _ _ _)) fun hs => ?_
    rw [hzero, drainTest_ctx u (.inr ?_)]
    refine Bool.eq_false_iff.2 fun hc => ?_
    obtain ⟨o, policy, lap, ho, hb, -⟩ := (holdsSetLine_iff s n).1 hs
    obtain ⟨q, hq, hqb⟩ := (sameBody_leaveHead v n 0).closes hc
    cases ho.symm.trans hq
    cases hb.symm.trans hqb
  · rw [hend, (finish_frame _ _ _ _ _).2.2.2.2.2.2.2.2.1, (drainTest_frame u n).2.2.2.2.2.2.1, leaveHead_ready, hv, ← hl]
    rfl
  · have hy0 : y.ctx ≠ 0 := h0 y (by rw [hw, hy]; simp)
    have hyx : y.ctx ≠ x.ctx := fun h => hxrest (by rw [hy]; simp [h])
    rw [hdrain _ hy0 hyx, hctx _ hy0, if_pos (by rw [hy]; rfl)]
  · rw [hdrain d hd hdx, hctx d hd, if_neg hh]

/-- Settles O34: the writer's end on its line, after its mover is free. -/
theorem writerAbandoned : Obligations.WriterAbandoned := by
  intro s m mv o b n x rest r l hm ho hb hd hp _ hw hx hwhy hnd h0 hl
  let v := s.setMover m none
  have hexec : exec (.writerAbandoned m) s = took (abandonAt n x.ctx r.status r.pos r.aux v) := by
    simp only [exec, execWriterAbandoned, movingWriter_eq hm ho hb hd hp hw hx, hx]
    rcases hwhy with ⟨st, pos, aux, hstage, hst, rfl⟩ | ⟨a, hstage, hfail, hout, rfl⟩
    · simp only [hstage]
      rfl
    · simp only [hstage, hfail, (settledMover_iff m s).2 hout, if_true, v]
  obtain ⟨h1, h2, h3, h4, h5, h6, h7, h8⟩ := abandonAt_spec (s := v) r hw hnd h0 (l := l)
    (by rw [hl]; simp only [headLeft, hw, abandonedFloor, activeFrames, State.setMover_line, List.tail_cons, v]; rfl) rfl
  have hflows : Flows s v := flows_setMover s m none
  let t := abandonAt n x.ctx r.status r.pos r.aux v
  have hmovers : t.movers = v.movers := h1.2.2 .movers (by simp)
  refine ⟨settleIdle t, hexec, onlyIn_settleIdle s (((onlyIn_setMover s m none).mono (by simp)).trans (h1.mono (by simp))),
    ?_, fun j hj => ?_, fun j hj => ?_, ?_, ?_, ?_, ?_, fun y ys hy => ?_, fun d hd0 hdx hh => ?_⟩
  · rw [settleIdle_mover, mover_congr hmovers, State.setMover_same]
  · rw [settleIdle_mover, mover_congr hmovers, State.setMover_other _ _ _ _ hj]
  · rw [settleIdle_line, h2 j hj]; rfl
  · exact (h3.before hflows rfl rfl).settle
  · rw [← hx]
    exact endsWith_settleIdle s (h4.before hflows (.of_eq rfl))
  · exact (h5.before hflows rfl rfl).settle
  · exact (settleIdle_ready t).trans h6
  · rw [settleIdle_ctx, h7 y ys hy]; rfl
  · rw [settleIdle_ctx, h8 d hd0 (by rwa [hx]) hh]; rfl

/-! ### The commit -/

variable (s)

/-- The entry of line `n` once its active writer has committed, before the walk (R82). -/
def grown (n : LineId) (s : State) : Line := { s.line n with w := (s.line n).w + activeFrames (s.line n) }

theorem committed_eq (n : LineId) : committed n s =
    wakeAll n ((s.line n).park.takeWhile fun x => decide (x.windowEnd ≤ (grown n s).w))
      (leaveHead n (s.setLine n (grown n s))) := by
  rw [committed, commitWalk_eq, leaveHead_line, State.setLine_same]
  rfl

/-- The reads a commit takes from the front of a park list that rises by window end are those W has reached (R16, R83). -/
theorem takeWhile_park {l : List Parked} (h : l.Pairwise fun x y => x.windowEnd ≤ y.windowEnd) (w : Nat) :
    l.takeWhile (fun x => decide (x.windowEnd ≤ w)) = l.filter fun x => decide (x.windowEnd ≤ w) := by
  induction l with
  | nil => rfl
  | cons x xs ih =>
    obtain ⟨hx, hxs⟩ := List.pairwise_cons.1 h
    by_cases hle : x.windowEnd ≤ w
    · simp [hle, ih hxs]
    · simp only [List.takeWhile_cons, List.filter_cons, hle, decide_false, Bool.false_eq_true, if_false]
      exact (List.filter_eq_nil_iff.2 fun y hy => by simpa using (Nat.not_le.1 hle).trans_le (hx y hy)).symm

/-- What a commit leaves of the contexts, up to the lap notice and the writer's own end (R82, R83). -/
structure Committed (s : State) (n : LineId) (x : Writer) (rest : List Writer) (woken : List Parked) (u : State) : Prop where
  only : OnlyIn [.ringFetcher, .scheduler, .lineTable, .parkTimer, .responseUnit] s u
  flows : Flows s u
  held : HeldChangeMade s n ((s.line n).w + x.frames) u
  timer : u.parkTimer = s.parkTimer.filter fun z => decide (z.1 ∉ woken.map Parked.ctx)
  ready : u.sched.ready = s.sched.ready ++ nextReady (headLeft (grown n s)) ++
    (woken.filter fun y => tapStays s (oldest (grown n s)) y.ctx).map Parked.ctx
  next : ∀ y ys, rest = y :: ys → u.ctx y.ctx = (s.ctx y.ctx).map fun q => { q with phase := nextPhase (headLeft (grown n s)) }
  reads : ∀ y ∈ woken, ReadWoken s (oldest (grown n s)) y.ctx u
  others : ∀ d, d ≠ 0 → rest.head?.map Writer.ctx ≠ some d → d ∉ woken.map Parked.ctx → u.ctx d = s.ctx d
  close : holdsCloseLine n s = true → u.ctx 0 = s.ctx 0
  body : SameBody 0 s u

theorem tapStays_rests {c : CtxId} (h : ∀ q b, s.ctx c = some q → q.body = some b → isRead b = false) (bound : Nat) :
    tapStays s bound c = false := by
  unfold tapStays
  cases hc : s.ctx c with
  | none => rfl
  | some q =>
    dsimp only
    split
    · next hb => cases h q _ hc hb
    · rfl

theorem readWoken_rests {c : CtxId} (h : ∀ q b, s.ctx c = some q → q.body = some b → isRead b = false) (bound : Nat)
    (t : State) : ReadWoken s bound c t := by
  intro q b hq hb
  constructor
  · rintro j a N wait absolute fld mask rfl; cases h q _ hq hb
  · rintro dest a N wait taps rfl; cases h q _ hq hb

/-- A SET_LINE is no read. -/
theorem setLine_rests {n : LineId} (h : holdsSetLine n s = true) :
    ∀ q b, s.ctx 0 = some q → q.body = some b → isRead b = false := by
  intro q b hq hb
  obtain ⟨o, policy, lap, ho, hob, -⟩ := (holdsSetLine_iff s n).1 h
  cases ho.symm.trans hq
  cases hob.symm.trans hb
  rfl

theorem committed_spec {n : LineId} {x : Writer} {rest : List Writer} {woken : List Parked}
    (hw : (s.line n).writers = x :: rest)
    (hnd : ((s.line n).writers.map Writer.ctx ++ (s.line n).park.map Parked.ctx).Nodup)
    (h0 : ∀ y ∈ (s.line n).writers, y.ctx ≠ 0) (hpark : (s.line n).park.Pairwise fun x y => x.windowEnd ≤ y.windowEnd)
    (hwoken : woken = (s.line n).park.filter fun y => decide (y.windowEnd ≤ (grown n s).w)) :
    Committed s n x rest woken (committed n s) := by
  let v := s.setLine n (grown n s)
  let u := leaveHead n v
  have hv : v.line n = grown n s := State.setLine_same s n _
  have hcommitted : committed n s = wakeAll n woken u := by rw [committed_eq, takeWhile_park hpark, hwoken]
  have hw' : (s.line n).w + x.frames = (grown n s).w := by simp only [grown, activeFrames, hw]
  have hzero : rest.head?.map Writer.ctx ≠ some 0 := head_ne_zero fun y hy => h0 y (by rw [hw]; exact List.mem_cons_of_mem _ hy)
  have hvtail : (v.line n).writers.tail = rest := by rw [hv]; simp only [grown, hw]; rfl
  have hv0 : ∀ y ∈ (v.line n).writers, y.ctx ≠ 0 := fun y hy => h0 y (by rw [hv] at hy; exact hy)
  obtain ⟨-, hparked, hdisj⟩ := List.nodup_append.1 hnd
  have hsub : ∀ d, d ∈ woken.map Parked.ctx → d ∈ (s.line n).park.map Parked.ctx := fun d hd => by
    obtain ⟨y, hy, rfl⟩ := List.mem_map.1 hd
    exact List.mem_map_of_mem (List.mem_of_mem_filter (hwoken ▸ hy))
  have hwnd : (woken.map Parked.ctx).Nodup := by
    rw [hwoken]
    exact hparked.sublist (List.filter_sublist.map _)
  have hnext : ∀ y ∈ rest, y.ctx ∉ woken.map Parked.ctx := fun y hy hmem =>
    hdisj y.ctx (by rw [hw]; simp only [List.map_cons, List.mem_cons]; exact .inr (List.mem_map_of_mem hy)) _ (hsub _ hmem) rfl
  have huctx : ∀ d, d ≠ 0 ∨ holdsSetLine n s = false → u.ctx d = if rest.head?.map Writer.ctx = some d then
      (s.ctx d).map fun o => { o with phase := nextPhase (headLeft (grown n s)) } else s.ctx d := fun d hd => by
    rw [leaveHead_ctx v hd, hvtail, hv]
    rfl
  have hukept : ∀ d, d ≠ 0 ∨ holdsSetLine n s = false → d ∈ woken.map Parked.ctx → u.ctx d = s.ctx d := fun d hd hmem => by
    rw [huctx d hd, if_neg]
    intro h
    cases hr : rest with
    | nil => simp [hr] at h
    | cons y ys =>
      rw [hr] at h
      simp only [List.head?_cons, Option.map_some, Option.some.injEq] at h
      exact hnext y (by simp [hr]) (h ▸ hmem)
  have huold : oldest (u.line n) = oldest (grown n s) := by rw [leaveHead_line, hv]; rfl
  have hflows : Flows s u := (flows_setLine s n _).trans (flows_leaveHead v n)
  have hbody : SameBody 0 s u := (SameBody.of_eq (t := v) rfl).trans (sameBody_leaveHead v n 0)
  have hsetu : holdsSetLine n s = true → ∀ q b, u.ctx 0 = some q → q.body = some b → isRead b = false := by
    intro hs q b hq hb
    obtain ⟨o, ho, he⟩ := hbody q hq
    exact setLine_rests s hs o b ho (he.symm.trans hb)
  rw [hcommitted]
  refine ⟨?_, hflows.trans (flows_wakeAll u n _), ?_, ?_, ?_, fun y ys hy => ?_, fun y hy => ?_, fun d hd hh hm => ?_,
    fun hc => ?_, hbody.trans (sameBody_wakeAll u n woken 0)⟩
  · exact (((onlyIn_setLine s n _).mono (by simp)).trans ((onlyIn_leaveHead v n).mono (by simp))).trans
      ((onlyIn_wakeAll u n woken).mono (by simp))
  · have hheld : HeldChangeMade v n (v.line n).w u := leaveHead_held v hv0
    rw [hv, ← hw'] at hheld
    exact (hheld.before (flows_setLine s n _) (by rw [hv]; rfl) rfl).after (flows_wakeAll u n _) fun hs =>
      wakeAll_ctx u (.inr (hsetu hs))
  · rw [wakeAll_parkTimer]
    simp [u, v]
  · have huready : u.sched.ready = s.sched.ready ++ nextReady (headLeft (grown n s)) := by
      rw [leaveHead_ready, hv]
      rfl
    rw [wakeAll_ready u hwnd, huold, huready]
    refine congrArg (fun z => s.sched.ready ++ nextReady (headLeft (grown n s)) ++ List.map Parked.ctx z)
      (List.filter_congr fun y hy => ?_)
    by_cases hs : y.ctx = 0 ∧ holdsSetLine n s = true
    · rw [hs.1, tapStays_rests u (hsetu hs.2), tapStays_rests s (setLine_rests s hs.2)]
    · exact tapStays_congr s (hukept _ (by
        by_cases hy0 : y.ctx = 0
        · exact .inr (Bool.eq_false_iff.2 fun h => hs ⟨hy0, h⟩)
        · exact .inl hy0) (List.mem_map_of_mem hy)) _
  · have hy0 : y.ctx ≠ 0 := h0 y (by rw [hw, hy]; simp)
    rw [wakeAll_ctx u (.inl (hnext y (by simp [hy]))), huctx _ (.inl hy0), if_pos (by rw [hy]; rfl)]
  · by_cases hs : y.ctx = 0 ∧ holdsSetLine n s = true
    · rw [hs.1]
      exact readWoken_rests s (setLine_rests s hs.2) _ _
    · have hread := wakeAll_woken u (n := n) hwnd y hy
      rw [huold] at hread
      exact hread.before hflows (hukept _ (by
        by_cases hy0 : y.ctx = 0
        · exact .inr (Bool.eq_false_iff.2 fun h => hs ⟨hy0, h⟩)
        · exact .inl hy0) (List.mem_map_of_mem hy))
  · rw [wakeAll_ctx u (.inl hm), huctx d (.inl hd), if_neg hh]
  · obtain ⟨o, ho, hb, -⟩ := (holdsCloseLine_iff s n).1 hc
    have hset : holdsSetLine n s = false := Bool.eq_false_iff.2 fun hs => by
      obtain ⟨q, policy, lap, hq, hqb, -⟩ := (holdsSetLine_iff s n).1 hs
      cases hq.symm.trans ho
      cases hqb.symm.trans hb
    have hu0 : u.ctx 0 = s.ctx 0 := by rw [huctx 0 (.inr hset), if_neg hzero]
    rw [wakeAll_ctx u (.inr fun q b hq hqb => ?_), hu0]
    rw [hu0, ho] at hq
    cases hq
    cases hb.symm.trans hqb
    rfl

/-- Of the park list a walk leaves the reads W has not reached (R83). -/
theorem park_left {l : List Parked} (h : l.Pairwise fun x y => x.windowEnd ≤ y.windowEnd) (hnd : (l.map Parked.ctx).Nodup)
    (w : Nat) : l.filter (fun y => decide (y.ctx ∉ (l.takeWhile fun x => decide (x.windowEnd ≤ w)).map Parked.ctx)) =
      l.filter fun y => decide (w < y.windowEnd) := by
  rw [takeWhile_park h]
  refine List.filter_congr fun y hy => decide_eq_decide.2 ⟨fun hn => ?_, fun hlt hmem => ?_⟩
  · exact Nat.lt_of_not_le fun hle => hn (List.mem_map_of_mem (List.mem_filter.2 ⟨hy, by simpa using hle⟩))
  · obtain ⟨z, hz, he⟩ := List.mem_map.1 hmem
    obtain ⟨hz, hle⟩ := List.mem_filter.1 hz
    cases List.inj_on_of_nodup_map hnd hz hy he
    exact absurd hlt (Nat.not_lt.2 (by simpa using hle))

/-- The lap notice of a commit (R18, R84). -/
def lapped (n : LineId) (s : State) (u : State) : State :=
  if (s.line n).state = .opened ∧ lapCount (s.line n) < ((s.line n).w + activeFrames (s.line n)) / (s.line n).cap then
    raiseLap n u
  else u

theorem commitAt_eq (n : LineId) (c : CtxId) (aux : Nat) : commitAt n c aux s =
    drainTest n (finish c .ok (grown n s).w aux (lapped n s (committed n s))) := rfl

theorem lapped_raised {n : LineId} {u : State} {raised : Bool} (hu : Flows s u) (hlap : (u.line n).lap = (s.line n).lap)
    (hpend : (u.line n).lapPending = (s.line n).lapPending)
    (hr : raised = true ↔ (s.line n).state = .opened ∧ (s.line n).lap.on = true ∧ (s.line n).lapPending = false ∧
      (s.respRing (s.line n).lap.target).state = .active ∧ (s.line n).w / (s.line n).cap < (grown n s).w / (s.line n).cap) :
    lapped n s u = if raised = true then
      post (s.line n).lap.target (.lap n) (u.setLine n { u.line n with lapPending := true }) else u := by
  have hflow := hu.active (s.line n).lap.target
  simp only [lapped, raiseLap, lapCount, hlap, hpend, hflow, hr, grown]
  split
  · next h => simp [h.1, h.2]
  · next h =>
    rw [if_neg]
    exact fun h' => h ⟨h'.1, h'.2.2.2.2⟩

/-- What a commit of a line's active writer leaves (R82, R83, R84). -/
theorem commitAt_spec {n : LineId} {x : Writer} {rest : List Writer} {woken : List Parked} {raised : Bool} {l : Line}
    (aux : Nat) (hw : (s.line n).writers = x :: rest)
    (hnd : ((s.line n).writers.map Writer.ctx ++ (s.line n).park.map Parked.ctx).Nodup)
    (h0 : ∀ y ∈ (s.line n).writers, y.ctx ≠ 0) (hpark : (s.line n).park.Pairwise fun x y => x.windowEnd ≤ y.windowEnd)
    (hwoken : woken = (s.line n).park.filter fun y => decide (y.windowEnd ≤ (grown n s).w))
    (hr : raised = true ↔ (s.line n).state = .opened ∧ (s.line n).lap.on = true ∧ (s.line n).lapPending = false ∧
      (s.respRing (s.line n).lap.target).state = .active ∧ (s.line n).w / (s.line n).cap < (grown n s).w / (s.line n).cap)
    (hl : l = { headLeft (grown n s) with
      park := (s.line n).park.filter fun y => decide ((grown n s).w < y.windowEnd)
      lapPending := (s.line n).lapPending || raised }) {t : State} (ht : t = commitAt n x.ctx aux s) :
    OnlyIn [.ringFetcher, .scheduler, .lineTable, .parkTimer, .storeController, .responseUnit] s t ∧
      (∀ j, j ≠ n → t.line j = s.line j) ∧ LineLeft s n l t ∧ EndsWith s x.ctx ⟨.ok, (grown n s).w, aux⟩ t ∧
      HeldChangeMade s n (grown n s).w t ∧
      t.parkTimer = s.parkTimer.filter (fun z => decide (z.1 ∉ woken.map Parked.ctx)) ∧
      t.sched.ready = s.sched.ready ++ nextReady l ++ (woken.filter fun y => tapStays s (oldest l) y.ctx).map Parked.ctx ∧
      (∀ y ys, rest = y :: ys → t.ctx y.ctx = (s.ctx y.ctx).map fun q => { q with phase := nextPhase l }) ∧
      (∀ y ∈ woken, ReadWoken s (oldest l) y.ctx t) ∧
      (∀ d, d ≠ 0 → d ≠ x.ctx → rest.head?.map Writer.ctx ≠ some d → d ∉ woken.map Parked.ctx → t.ctx d = s.ctx d) ∧
      (raised = true → ⟨(s.line n).lap.target, .lap n⟩ ∈ t.resp.posts) := by
  have hc := committed_spec s hw hnd h0 hpark hwoken
  let u := lapped n s (committed n s)
  let v := finish x.ctx .ok (grown n s).w aux u
  have hend : t = drainTest n v := ht
  have hx0 : x.ctx ≠ 0 := h0 x (by simp [hw])
  have hrest : oldest l = oldest (grown n s) ∧ nextReady l = nextReady (headLeft (grown n s)) ∧
      nextPhase l = nextPhase (headLeft (grown n s)) := by rw [hl]; exact ⟨rfl, rfl, rfl⟩
  have hline : (committed n s).line n = { headLeft (grown n s) with
      park := (s.line n).park.filter fun y => decide ((grown n s).w < y.windowEnd) } := by
    rw [← park_left hpark (List.nodup_append.1 hnd).2.1, committed_line]
    rfl
  have hu : u = if raised = true then post (s.line n).lap.target (.lap n)
      ((committed n s).setLine n { (committed n s).line n with lapPending := true }) else committed n s :=
    lapped_raised s hc.flows (by rw [hline]; rfl) (by rw [hline]; rfl) hr
  have huflows : Flows (committed n s) u := by
    rw [hu]
    split
    · exact (flows_setLine _ n _).trans (flows_post _ _ _)
    · exact Flows.refl _
  have huctx : ∀ d, u.ctx d = (committed n s).ctx d := fun d => by
    rw [hu]; split <;> simp
  have huonly : OnlyIn [.lineTable, .responseUnit] (committed n s) u := by
    rw [hu]
    split
    · exact ((onlyIn_setLine _ n _).mono (by simp)).trans ((onlyIn_post _ _ _).mono (by simp))
    · exact onlyIn_refl _ _
  have huline : u.line n = l := by
    rw [hu, hl]
    cases raised <;> simp [hline]
    rfl
  have hflows : Flows s u := hc.flows.trans huflows
  have hxw : x.ctx ∉ woken.map Parked.ctx := fun hmem => by
    obtain ⟨y, hy, he⟩ := List.mem_map.1 hmem
    exact (List.nodup_append.1 hnd).2.2 x.ctx (by rw [hw]; simp) y.ctx
      (List.mem_map_of_mem (List.mem_of_mem_filter (hwoken ▸ hy))) he.symm
  have hxrest : rest.head?.map Writer.ctx ≠ some x.ctx := by
    rw [hw] at hnd
    cases rest with
    | nil => simp
    | cons y ys => simpa using fun h => (List.nodup_cons.1 (List.nodup_append.1 hnd).1).1 (by simp [h])
  have hxkept : u.ctx x.ctx = s.ctx x.ctx := (huctx _).trans (hc.others _ hx0 hxrest hxw)
  have hvflows : Flows s v := hflows.trans (flows_finish u _ _ _ _)
  have hvctx : ∀ d, d ≠ x.ctx → v.ctx d = (committed n s).ctx d := fun d hd =>
    (finish_other u _ _ _ hd).trans (huctx d)
  have hvbody : SameBody 0 s v :=
    (hc.body.trans (.of_eq (huctx 0))).trans (sameBody_finish u x.ctx 0 _ _ _)
  have htctx : ∀ d, d ≠ 0 ∨ holdsCloseLine n v = false → t.ctx d = v.ctx d := fun d hd => by rw [hend, drainTest_ctx v hd]
  have hvt : Flows v t := hend ▸ flows_drainTest v n
  have hct : Flows (committed n s) t := (huflows.trans (flows_finish u _ _ _ _)).trans hvt
  rw [hrest.1, hrest.2.1, hrest.2.2]
  refine ⟨?_, fun j hj => ?_, ?_, ?_, ?_, ?_, ?_, fun y ys hy => ?_, fun y hy => ?_, fun d hd hdx hh hm => ?_, fun hraise => ?_⟩
  · rw [hend]
    exact (((hc.only.mono (by simp)).trans (huonly.mono (by simp))).trans ((onlyIn_finish u _ _ _ _).mono (by simp))).trans
      ((onlyIn_drainTest v n).mono (by simp))
  · rw [hend, drainTest_line_other _ hj, finish_line, ← committed_line_other s hj, hu]
    split
    · rw [line_congr (s := (committed n s).setLine n _) (post_frame _ _ _).2.2.2.2.2.2.1 j, State.setLine_other _ _ _ _ hj]
    · rfl
  · rw [hend]
    refine drainTest_lineLeft s (by rw [finish_line, huline]) ?_ hvflows fun _ hclose => ?_
    · rw [(finish_frame u _ _ _ _).2.2.2.2.2.2.2.1]
      have hstore : u.store = (committed n s).store := huonly.2.2 .storeController (by simp)
      exact hstore.trans (hc.only.2.2 .storeController (by simp))
    · rw [hvctx 0 (Ne.symm hx0), hc.close hclose]
  · exact (hflows.endsWith (.of_eq hxkept) .ok _ aux).after hvt (htctx _ (.inl hx0))
  · have hheld := hc.held
    rw [show (s.line n).w + x.frames = (grown n s).w by simp only [grown, activeFrames, hw]] at hheld
    refine hheld.after hct fun hs => ?_
    rw [htctx 0 (.inr (Bool.eq_false_iff.2 fun hclose => ?_)), hvctx 0 (Ne.symm hx0)]
    obtain ⟨q, hq, hqb⟩ := hvbody.closes hclose
    obtain ⟨o, policy, lap, ho, hb, -⟩ := (holdsSetLine_iff s n).1 hs
    cases ho.symm.trans hq
    cases hb.symm.trans hqb
  · rw [hend, ← hc.timer]
    simp only [drainTest_frame, v, finish_frame]
    exact huonly.2.2 .parkTimer (by simp)
  · rw [hend, ← hc.ready]
    simp only [drainTest_frame, v, finish_frame]
    exact congrArg Scheduler.ready (huonly.2.2 .scheduler (by simp))
  · have hy0 : y.ctx ≠ 0 := h0 y (by rw [hw, hy]; simp)
    have hyx : y.ctx ≠ x.ctx := fun h => hxrest (by rw [hy]; simp [h])
    rw [htctx _ (.inl hy0), hvctx _ hyx, hc.next y ys hy]
  · have hyx : y.ctx ≠ x.ctx := fun h => hxw (h ▸ List.mem_map_of_mem hy)
    by_cases hclose : y.ctx = 0 ∧ holdsCloseLine n v = true
    · obtain ⟨q, hq, hqb⟩ := hvbody.closes hclose.2
      rw [hclose.1]
      refine readWoken_rests s (fun q' b hq' hb => ?_) _ _
      cases hq.symm.trans hq'
      cases hqb.symm.trans hb
      rfl
    · refine (hc.reads y hy).after hct ?_
      rw [htctx _ ?_, hvctx _ hyx]
      by_cases hy0 : y.ctx = 0
      · exact .inr (Bool.eq_false_iff.2 fun h => hclose ⟨hy0, h⟩)
      · exact .inl hy0
  · rw [htctx _ (.inl hd), hvctx _ hdx, hc.others d hd hh hm]
  · refine ((flows_finish u _ _ _ _).trans hvt).posts.subset ?_
    rw [hu, if_pos hraise, post_posts, if_pos]
    · simp
    · rw [show ((committed n s).setLine n _).respRing (s.line n).lap.target = (committed n s).respRing _ from rfl,
        hc.flows.active]
      exact (hr.1 hraise).2.2.2.1

/-- Settles O33: the writer's end on its line, after its mover is free. -/
theorem commit : Obligations.Commit := by
  intro s m mv o b n x rest pos aux w woken raised l hm ho hb hd hp _ hw hx hwhy hnd h0 hok hwdef hwoken hraised hl
  let v := s.setMover m none
  have hexec : exec (.commit m) s = took (commitAt n x.ctx aux v) := by
    simp only [exec, execCommit, movingWriter_eq hm ho hb hd hp hw hx, hx]
    rcases hwhy with hstage | ⟨hstage, hmix, haux, hfail, hout, hwritten⟩
    · simp only [hstage]
      rfl
    · have hstored : runStored m mv b n s = true := by
        simp only [runStored, hfail, Option.isNone_none, (settledMover_iff m s).2 hout, hwritten, decide_true, Bool.and_self]
      simp only [hstage, hstored, if_true]
      rw [haux]
  have hgrown : (grown n v).w = w := by rw [hwdef]; simp only [grown, activeFrames, State.setMover_line, hw, v]
  obtain ⟨h1, h2, h3, h4, h5, h6, h7, h8, h9, h10, h11⟩ := commitAt_spec v (woken := woken) (raised := raised) (l := l) aux
    hw hnd h0 hok.2.2.2.1 (by rw [hgrown]; exact hwoken) (by rw [hgrown]; exact hraised)
    (by rw [hgrown, hl, hwdef]; simp only [headLeft, grown, hw, activeFrames, State.setMover_line, List.tail_cons, v]) rfl
  rw [hgrown] at h4 h5
  have hflows : Flows s v := flows_setMover s m none
  let t := commitAt n x.ctx aux v
  have hmovers : t.movers = v.movers := h1.2.2 .movers (by simp)
  refine ⟨settleIdle t, hexec, onlyIn_settleIdle s (((onlyIn_setMover s m none).mono (by simp)).trans (h1.mono (by simp))),
    ?_, fun j hj => ?_, fun j hj => ?_, (h3.before hflows rfl rfl).settle, ?_, (h5.before hflows rfl rfl).settle,
    (settleIdle_frame t).2.2.2.2.2.2.1.trans h6, (settleIdle_ready t).trans h7, fun y ys hy => ?_, fun y hy => ?_,
    fun d hd0 hdx hh hmem => ?_, fun hraise => ?_⟩
  · rw [settleIdle_mover, mover_congr hmovers, State.setMover_same]
  · rw [settleIdle_mover, mover_congr hmovers, State.setMover_other _ _ _ _ hj]
  · rw [settleIdle_line, h2 j hj]; rfl
  · rw [← hx]
    exact endsWith_settleIdle s (h4.before hflows (.of_eq rfl))
  · rw [settleIdle_ctx, h8 y ys hy]; rfl
  · exact ((h9 y hy).before hflows rfl).after (flows_settleIdle t) (settleIdle_ctx t _)
  · rw [settleIdle_ctx, h10 d hd0 (by rwa [hx]) hh hmem]; rfl
  · exact (flows_settleIdle t).posts.subset (h11 hraise)

/-! ### An access that a store in FAULT refuses -/

theorem sameOp_drainTest (n : LineId) {d : CtxId} (h : d ≠ 0) : SameOp d s (drainTest n s) := .of_eq (drainTest_ctx s (.inl h))

theorem sameOp_removePin (n : LineId) (c : CtxId) {d : CtxId} (h : d ≠ 0) : SameOp d s (removePin n c s) :=
  ((SameOp.of_eq rfl).trans (sameOp_guardRecheck (s.setLine n _) n d)).trans (sameOp_drainTest _ n h)

theorem sameOp_leaveHead (n : LineId) {d : CtxId} (h : d ≠ 0) : SameOp d s (leaveHead n s) :=
  (SameOp.of_eq (applyHeld_ctx (headGone n s) (.inl h))).trans (sameOp_activate _ n d)

theorem sameOp_removePins (ns : List LineId) (c : CtxId) {d : CtxId} (h : d ≠ 0) : SameOp d s (removePins ns c s) := by
  unfold removePins
  induction ns generalizing s with
  | nil => exact .of_eq rfl
  | cons n ns ih => exact (sameOp_removePin s n c h).trans (ih _)

/-- No byte of the store, no waiting access, and of no OPEN line its W, F or extents have changed (R22). -/
structure MovesNothing (s t : State) : Prop where
  waiting : t.store.waiting = s.store.waiting
  cells : t.store.cells = s.store.cells
  state : t.store.state = s.store.state
  movers : t.movers = s.movers
  lines : ∀ n, (s.line n).state = .opened → (t.line n).state = .opened ∧ (t.line n).w = (s.line n).w ∧
    (t.line n).f = (s.line n).f ∧ (t.line n).extents = (s.line n).extents

variable {s}

theorem MovesNothing.trans {u t : State} (h : MovesNothing s u) (h' : MovesNothing u t) : MovesNothing s t := by
  refine ⟨h'.waiting.trans h.waiting, h'.cells.trans h.cells, h'.state.trans h.state, h'.movers.trans h.movers, fun n hn => ?_⟩
  obtain ⟨h1, h2, h3, h4⟩ := h.lines n hn
  obtain ⟨g1, g2, g3, g4⟩ := h'.lines n h1
  exact ⟨g1, g2.trans h2, g3.trans h3, g4.trans h4⟩

theorem MovesNothing.of_lines {t : State} (hs : t.store = s.store) (hm : t.movers = s.movers) (hl : t.lines = s.lines) :
    MovesNothing s t :=
  ⟨by rw [hs], by rw [hs], by rw [hs], hm, fun n hn => by rw [line_congr hl]; exact ⟨hn, rfl, rfl, rfl⟩⟩

variable (s)

theorem movesNothing_drainTest (n : LineId) : MovesNothing s (drainTest n s) := by
  have hstore := drainTest_store s n
  refine ⟨by rw [hstore]; split <;> rfl, by rw [hstore]; split <;> rfl, by rw [hstore]; split <;> rfl, by simp, fun k hk => ?_⟩
  have hline : (drainTest n s).line k = s.line k := by
    by_cases h : k = n
    · subst h
      rw [drainTest_line_same, if_neg fun h => by rw [hk] at h; cases h.1]
    · exact drainTest_line_other s h
  rw [hline]
  exact ⟨hk, rfl, rfl, rfl⟩

theorem movesNothing_leaveHead (n : LineId) : MovesNothing s (leaveHead n s) := by
  refine ⟨by simp, by simp, by simp, by simp, fun k hk => ?_⟩
  by_cases h : k = n
  · subst h
    rw [leaveHead_line]
    exact ⟨hk, rfl, rfl, rfl⟩
  · rw [leaveHead_line_other s h]
    exact ⟨hk, rfl, rfl, rfl⟩

theorem movesNothing_removePin (n : LineId) (c : CtxId) : MovesNothing s (removePin n c s) := by
  let u := s.setLine n { s.line n with pins := (s.line n).pins.filter fun x => x.ctx ≠ c }
  have hpins : MovesNothing s u := by
    refine ⟨rfl, rfl, rfl, rfl, fun k hk => ?_⟩
    by_cases h : k = n
    · subst h
      rw [State.setLine_same]
      exact ⟨hk, rfl, rfl, rfl⟩
    · rw [State.setLine_other _ _ _ _ h]
      exact ⟨hk, rfl, rfl, rfl⟩
  exact (hpins.trans (.of_lines (by simp) (by simp) (by simp) : MovesNothing u (guardRecheck n u))).trans
    (movesNothing_drainTest _ n)

theorem movesNothing_removePins (ns : List LineId) (c : CtxId) : MovesNothing s (removePins ns c s) := by
  unfold removePins
  induction ns generalizing s with
  | nil => exact .of_lines rfl rfl rfl
  | cons n ns ih => exact (movesNothing_removePin s n c).trans (ih _)

/-- The operation whose access is refused leaves its destination's queue (R22). -/
def refusedWriter (b : Body) (s : State) : State :=
  match destOf b with
  | none => s
  | some n => drainTest n (leaveHead n s)

theorem refusedWriter_spec (b : Body) {d : CtxId} (h : d ≠ 0) :
    Flows s (refusedWriter b s) ∧ SameOp d s (refusedWriter b s) ∧ MovesNothing s (refusedWriter b s) := by
  unfold refusedWriter
  cases destOf b with
  | none => exact ⟨Flows.refl s, .of_eq rfl, .of_lines rfl rfl rfl⟩
  | some n =>
    exact ⟨(flows_leaveHead s n).trans (flows_drainTest _ n), (sameOp_leaveHead s n h).trans (sameOp_drainTest _ n h),
      (movesNothing_leaveHead s n).trans (movesNothing_drainTest _ n)⟩

/-- Settles O22: a refused operation gives back its mover, its pins and its place in a queue before it ends. -/
theorem storeAccessStart : Obligations.StoreAccessStart := by
  intro s a rest hwait
  constructor
  · intro hready hpower hbusy hdebt haddr
    let t := s.setStore { s.store with waiting := rest, busy := some (.access a) }
    refine ⟨settleIdle t, ?_, onlyIn_settleIdle s (onlyIn_setStore s _), by simp [t]⟩
    have hserves : servesAccess s = true := by simp [servesAccess, hbusy, hpower, Config.maxDebt, hdebt]
    have hin : a.addr + a.len ≤ Config.storeBytes := haddr
    simp only [exec, execStoreAccessStart, hwait, hready, hserves, hin, if_true, took_eq, List.tail_cons, t]
  · intro m mv o b hfault ham hm ho hb h0
    let u := (abandonReads m (dropAccess s)).setMover m none
    let v := removePins (firstAppearances (sourcesOf b)) mv.ctx u
    let t := finish mv.ctx .storeFault 0 0 (refusedWriter b v)
    have hrefuse : refuseAccess m (dropAccess s) = t := by
      simp only [refuseAccess, show (dropAccess s).mover m = some mv from hm, show (dropAccess s).ctx mv.ctx = some o from ho,
        Option.bind_some, hb]
      rfl
    have hu : MovesNothing u t := ((movesNothing_removePins u _ _).trans (refusedWriter_spec v b h0).2.2).trans
      (.of_lines (by simp [t]) (by simp [t]) (by simp [t]))
    have huwait : u.store.waiting = rest := by simp [u, abandonReads, dropAccess, hwait]
    refine ⟨settleIdle t, ?_, ?_, endsWith_settleIdle s ?_, ?_, ?_, ?_, fun n hn => ?_⟩
    · simp only [exec, execStoreAccessStart, hwait, hfault, ham, hrefuse, took_eq]
    · rw [settleIdle_mover, mover_congr hu.movers, State.setMover_same]
    · have hflows : Flows s v := (Flows.of_same rfl rfl : Flows s u).trans (flows_removePins u _ _)
      have hsame : SameOp mv.ctx s v := (SameOp.of_eq (t := u) rfl).trans (sameOp_removePins u _ _ h0)
      obtain ⟨g1, g2, -⟩ := refusedWriter_spec v b h0
      exact (hflows.trans g1).endsWith (hsame.trans g2) .storeFault 0 0
    · rw [settleIdle_store]
      exact hu.waiting.trans huwait
    · rw [settleIdle_store]
      exact hu.cells
    · rw [settleIdle_store]
      exact hu.state.trans hfault
    · rw [settleIdle_line]
      exact (hu.lines n hn).2

end Sys2Proof.Machine

/-! PROOF. What a mover asks for: the host reads of a DEPOSIT, the store access that follows, and the grants that begin
with them (R79, R80, R100, R136 to R138, R156 to R159). -/

namespace Sys2Proof.Machine

variable (s : State)

/-! ### The host reads of a DEPOSIT -/

/-- A mover that carries no DEPOSIT that may go on asks for no host read (R86, R159). -/
theorem askTransfers_rests (fuel : Nat) {m : MoverId} (h : ∀ mv o n addr M, s.mover m = some mv → s.ctx mv.ctx = some o →
    o.body = some (.deposit n addr M) → o.phase = .moving → mv.failedAt = none → False) : askTransfers fuel m s = s := by
  cases fuel with
  | zero => rfl
  | succ fuel =>
    unfold askTransfers
    cases hm : s.mover m with
    | none => rfl
    | some mv =>
      dsimp only
      split
      · next n addr M hb =>
        obtain ⟨o, ho, hb⟩ := Option.bind_eq_some_iff.1 hb
        rw [if_neg]
        rintro ⟨hp, hf, -⟩
        rw [inPhase_of s ho] at hp
        exact h mv o n addr M hm ho hb (by simpa using hp) hf
      · rfl

/-- One more host read of a DEPOSIT (R79, R159). -/
def nextTransfer (m : MoverId) (mv : Mover) (addr : HostAddr) (total : Nat) (s : State) : State :=
  askRead (.mover m (mv.hostDone / 512)) (addr + BitVec.ofNat 64 (512 * (mv.hostDone / 512)))
    (min 512 (total - 512 * (mv.hostDone / 512)))
    (s.setMover m (some { mv with hostDone := mv.hostDone + min 512 (total - 512 * (mv.hostDone / 512)) }))

variable {s}

theorem askTransfers_step {m : MoverId} {mv : Mover} {o : Operation} {n : LineId} {addr : HostAddr} {M : Nat}
    (hm : s.mover m = some mv) (ho : s.ctx mv.ctx = some o) (hb : o.body = some (.deposit n addr M))
    (hp : o.phase = .moving) (hf : mv.failedAt = none) (fuel : Nat) : askTransfers (fuel + 1) m s =
      if readsOut m s < 4 ∧ mv.hostDone < M * frameSize (s.line n) then
        askTransfers fuel m (nextTransfer m mv addr (M * frameSize (s.line n)) s)
      else s := by
  have hphase : s.inPhase mv.ctx .moving = true := by rw [inPhase_of s ho, hp]; rfl
  conv_lhs => unfold askTransfers
  simp only [hm, ho, Option.bind_some, hb]
  exact if_congr ⟨fun h => h.2.2, fun h => ⟨hphase, hf, h⟩⟩ rfl rfl

theorem nextTransfer_readsOut (m : MoverId) (mv : Mover) (addr : HostAddr) (total : Nat) :
    readsOut m (nextTransfer m mv addr total s) = readsOut m s + 1 := by
  simp [readsOut, nextTransfer, askRead_reads, askedBy]

/-- A DEPOSIT's mover asks for as many further reads as leave at most 4 outstanding, in order (R79, R159). -/
theorem askTransfers_deposit (fuel : Nat) {m : MoverId} {mv : Mover} {o : Operation} {n : LineId} {addr : HostAddr}
    {M total asked more : Nat} (hm : s.mover m = some mv) (ho : s.ctx mv.ctx = some o)
    (hb : o.body = some (.deposit n addr M)) (hp : o.phase = .moving) (hf : mv.failedAt = none)
    (ht : total = M * frameSize (s.line n)) (hd : mv.hostDone = min total (512 * asked))
    (hmore : more = min ((total + 511) / 512 - asked) (min fuel (4 - readsOut m s))) :
    (askTransfers fuel m s).mover m = some { mv with hostDone := min total (512 * (asked + more)) } ∧
      (askTransfers fuel m s).host.reads = s.host.reads ++ (List.range more).map fun i =>
        ⟨s.host.nextRead + i, .mover m (asked + i), addr + BitVec.ofNat 64 (512 * (asked + i)),
          min 512 (total - 512 * (asked + i)),
          if s.host.linkUp = true ∧ s.host.permitted = true then some s.now else none⟩ := by
  induction fuel generalizing s mv asked more with
  | zero =>
    obtain rfl : more = 0 := by omega
    simp [askTransfers, hm, ← hd]
  | succ fuel ih =>
    rw [askTransfers_step hm ho hb hp hf, ← ht]
    by_cases hc : readsOut m s < 4 ∧ mv.hostDone < total
    · have hx : mv.hostDone / 512 = asked := by omega
      let u := nextTransfer m mv addr total s
      let mv' : Mover := { mv with hostDone := mv.hostDone + min 512 (total - 512 * asked) }
      have hu : u = askRead (.mover m asked) (addr + BitVec.ofNat 64 (512 * asked)) (min 512 (total - 512 * asked))
          (s.setMover m (some mv')) := by simp only [u, nextTransfer, hx, mv']
      obtain ⟨g1, g2⟩ := ih (s := u) (mv := mv') (asked := asked + 1) (more := more - 1)
        (by rw [hu, mover_congr (s := s.setMover m (some mv')) (by simp), State.setMover_same])
        (by rw [hu, ctx_congr (s := s.setMover m (some mv')) (by simp)]; exact ho) hf
        (by rw [hu, line_congr (s := s.setMover m (some mv')) (by simp)]; exact ht)
        (by simp only [mv']; omega) (by rw [nextTransfer_readsOut]; omega)
      obtain ⟨k, rfl⟩ : ∃ k, more = k + 1 := ⟨more - 1, by omega⟩
      have hshift : ∀ a i : Nat, a + 1 + i = a + (i + 1) := fun a i => by omega
      rw [if_pos hc]
      refine ⟨by rw [g1, Nat.add_sub_cancel, hshift], ?_⟩
      rw [g2, hu, askRead_reads, List.range_succ_eq_map, List.map_cons, List.map_map, List.append_assoc]
      simp only [List.singleton_append, Nat.add_sub_cancel, Nat.add_zero, askRead_frame, State.setMover_host,
        State.setMover_now, hshift, Function.comp_def, Nat.succ_eq_add_one]
      rfl
    · obtain rfl : more = 0 := by omega
      rw [if_neg hc]
      simp [hm, ← hd]

/-! ### What an event leaves of the movers when one of them asks for more -/

/-- Of its mover, a mover that asks for host reads changes the bytes requested only (R156). -/
theorem askTransfers_mover (fuel : Nat) {m : MoverId} {mv : Mover} (hm : s.mover m = some mv) :
    ∃ d, (askTransfers fuel m s).mover m = some { mv with hostDone := d } := by
  induction fuel generalizing s mv with
  | zero => exact ⟨_, hm⟩
  | succ fuel ih =>
    by_cases h : ∀ q o n addr M, s.mover m = some q → s.ctx q.ctx = some o → o.body = some (.deposit n addr M) →
        o.phase = .moving → q.failedAt = none → False
    · rw [askTransfers_rests s _ h]
      exact ⟨_, hm⟩
    · push Not at h
      obtain ⟨q, o, n, addr, M, hq, ho, hb, hp, hf, -⟩ := h
      cases hm.symm.trans hq
      rw [askTransfers_step hm ho hb hp hf]
      split
      · obtain ⟨d, hd⟩ := ih (s := nextTransfer m mv addr (M * frameSize (s.line n)) s)
          (mv := { mv with hostDone := mv.hostDone + min 512 (M * frameSize (s.line n) - 512 * (mv.hostDone / 512)) })
          (by unfold nextTransfer; rw [mover_congr (askRead_frame _ _ _ _).2.2.2.2.2.2.1, State.setMover_same])
        exact ⟨d, hd⟩
      · exact ⟨_, hm⟩

theorem askTransfers_mover_other (fuel : Nat) {m j : MoverId} (hj : j ≠ m) :
    (askTransfers fuel m s).mover j = s.mover j := by
  induction fuel generalizing s with
  | zero => rfl
  | succ fuel ih =>
    by_cases h : ∀ q o n addr M, s.mover m = some q → s.ctx q.ctx = some o → o.body = some (.deposit n addr M) →
        o.phase = .moving → q.failedAt = none → False
    · rw [askTransfers_rests s _ h]
    · push Not at h
      obtain ⟨q, o, n, addr, M, hq, ho, hb, hp, hf, -⟩ := h
      rw [askTransfers_step hq ho hb hp hf]
      split
      · rw [ih]
        unfold nextTransfer
        rw [mover_congr (askRead_frame _ _ _ _).2.2.2.2.2.2.1, State.setMover_other _ _ _ _ hj]
      · rfl

theorem pump_mover_other {m j : MoverId} (hj : j ≠ m) : (pump m s).mover j = s.mover j := by
  rw [pump, mover_congr (askStore_frame _ m).2.2.2.2.2.2.2.2.1, askTransfers_mover_other _ hj]

theorem pump_mover {m : MoverId} {mv : Mover} (hm : s.mover m = some mv) :
    ∃ d, (pump m s).mover m = some { mv with hostDone := d } := by
  rw [pump, mover_congr (askStore_frame _ m).2.2.2.2.2.2.2.2.1]
  exact askTransfers_mover _ hm

/-- A free mover asks for nothing. -/
theorem pump_free {m : MoverId} (hm : s.mover m = none) : pump m s = s := by
  have htransfers : askTransfers Config.maxReads m s = s :=
    askTransfers_rests s _ fun mv o n addr M h => by rw [hm] at h; cases h
  rw [pump, htransfers]
  simp only [askStore, nextAccess, hm]

theorem pumpAll_free {m : MoverId} (hm : s.mover m = none) : (pumpAll s).mover m = none := by
  have step : ∀ {u : State} (j : MoverId), u.mover m = none → (pump j u).mover m = none := by
    intro u j hu
    by_cases h : m = j
    · subst h; rw [pump_free hu, hu]
    · rw [pump_mover_other h, hu]
  exact step 3 (step 2 (step 1 (step 0 hm)))

/-- A mover asks for nothing of the host when it carries no DEPOSIT that may go on. -/
theorem pump_rests {m : MoverId} (h : ∀ mv o n addr M, s.mover m = some mv → s.ctx mv.ctx = some o →
    o.body = some (.deposit n addr M) → o.phase = .moving → mv.failedAt = none → False) : pump m s = askStore m s := by
  rw [pump, askTransfers_rests s _ h]

/-- What a mover has asked of the store does not depend on what else changes. -/
theorem AsksStore.congr {waiting : List Access} {m : MoverId} {mv : Mover} {o : Operation} {b : Body} {u t : State}
    (h : AsksStore waiting m mv o b u) (hs : t.store = u.store) (hl : t.lines = u.lines)
    (hw : t.host.waiters = u.host.waiters) : AsksStore waiting m mv o b t := by
  have hline : ∀ n, t.line n = u.line n := line_congr hl
  unfold AsksStore HoldsBack WritesNext ReadsNext at h ⊢
  simpa only [hline, hs, hw] using h

theorem AsksStore.settle {waiting : List Access} {m : MoverId} {mv : Mover} {o : Operation} {b : Body} {u : State}
    (h : AsksStore waiting m mv o b u) : AsksStore waiting m mv o b (settleIdle u) :=
  h.congr (by simp) (by simp) (by simp)

/-- What a mover asks for within an event (R32, R159). -/
theorem pump_asks {m : MoverId} {mv mv' : Mover} {o : Operation} {b : Body} (hm : s.mover m = some mv)
    (hm' : (pump m s).mover m = some mv') (ho : s.ctx mv.ctx = some o) (hb : o.body = some b) :
    AsksStore s.store.waiting m mv' o b (pump m s) := by
  obtain ⟨d, hd⟩ := askTransfers_mover (s := s) Config.maxReads hm
  rw [pump, mover_congr (askStore_frame _ m).2.2.2.2.2.2.2.2.1, hd] at hm'
  cases hm'
  have hasks := askStore_asks m (askTransfers Config.maxReads m s) hd
    ((ctx_congr (by simp) mv.ctx).trans ho) hb
  rwa [show (askTransfers Config.maxReads m s).store = s.store by simp] at hasks

/-! ### The mover arbiter -/

/-- The operation the arbiter chooses, in the list it chooses from (R157). -/
theorem bestOf_spec (s : State) (l : List CtxId) : (bestOf s l = none ↔ l = []) ∧
    ∀ c, bestOf s l = some c → ∃ before after, l = before ++ c :: after ∧
      (∀ d ∈ before, rankOf d s < rankOf c s) ∧ ∀ d ∈ after, rankOf d s ≤ rankOf c s := by
  induction l with
  | nil => exact ⟨by simp [bestOf], fun c h => by cases h⟩
  | cons x xs ih =>
    obtain ⟨hnone, hsome⟩ := ih
    unfold bestOf
    cases hb : bestOf s xs with
    | none =>
      refine ⟨by simp, fun c hc => ?_⟩
      cases hc
      exact ⟨[], xs, rfl, by simp, by rw [hnone.1 hb]; simp⟩
    | some d =>
      obtain ⟨before, after, hxs, h1, h2⟩ := hsome d hb
      dsimp only
      split
      · next hlt =>
        refine ⟨by simp, fun c hc => ?_⟩
        cases hc
        refine ⟨x :: before, after, by rw [hxs]; rfl, ?_, h2⟩
        simpa using ⟨hlt, h1⟩
      · next hle =>
        refine ⟨by simp, fun c hc => ?_⟩
        cases hc
        refine ⟨[], xs, rfl, by simp, fun e he => ?_⟩
        have hd := Nat.not_lt.1 hle
        rw [hxs] at he
        rcases List.mem_append.1 he with he | he
        · exact (h1 e he).le.trans hd
        · rcases List.mem_cons.1 he with rfl | he
          · exact hd
          · exact (h2 e he).trans hd

/-- The lowest-numbered free mover is granted to the operation chosen (R157, log 10). -/
theorem moverGrant_eq {c : CtxId} {o : Operation} {b : Body} (hbest : bestOf s s.sched.ready = some c)
    (hfree : ∃ m, s.mover m = none) (ho : s.ctx c = some o) (hb : o.body = some b) :
    ∃ m, s.mover m = none ∧ (∀ j, j < m → s.mover j ≠ none) ∧
      exec .moverGrant s = took (takeGrant m c o b (leaveReady c s)) := by
  cases hm : freeMover s with
  | none =>
    obtain ⟨m, hfree⟩ := hfree
    have := List.find?_eq_none.1 hm m (List.mem_finRange m)
    simp [hfree] at this
  | some m =>
    obtain ⟨hnone, as, bs, hsplit, hbefore⟩ := List.find?_eq_some_iff_append.1 hm
    refine ⟨m, by simpa using hnone, fun j hj => ?_, by simp only [exec, execMoverGrant, hm, hbest, ho, hb]⟩
    have hsorted : (as ++ m :: bs).Pairwise (· < ·) := hsplit ▸ List.pairwise_lt_finRange 4
    have hmem : j ∈ as ++ m :: bs := hsplit ▸ List.mem_finRange j
    rcases List.mem_append.1 hmem with h | h
    · exact Option.isSome_iff_ne_none.1 (by simpa using hbefore j h)
    · rcases List.mem_cons.1 h with rfl | h
      · exact absurd hj (lt_irrefl _)
      · exact absurd ((List.pairwise_cons.1 (List.pairwise_append.1 hsorted).2.1).1 j h) (not_lt.2 hj.le)

/-- An operation put in a phase with a mover bound to it, before that mover asks for anything (R156, R158). -/
def bound (m : MoverId) (c : CtxId) (mv : Mover) (s : State) : State := (s.setPhase c .moving).setMover m (some mv)

theorem bound_ctx (m : MoverId) (c d : CtxId) (mv : Mover) {o : Operation} (ho : s.ctx c = some o) :
    (bound m c mv (leaveReady c s)).ctx d = if d = c then some { o with phase := .moving } else s.ctx d := by
  rw [bound, State.setMover_ctx, setPhase_ctx, leaveReady_ctx, leaveReady_ctx, ho]
  rfl

theorem onlyIn_bound (m : MoverId) (c : CtxId) (mv : Mover) :
    OnlyIn [.scheduler, .movers] s (bound m c mv (leaveReady c s)) :=
  (((onlyIn_setReady s _).mono (by simp)).trans ((onlyIn_setPhase _ c _).mono (by simp))).trans
    ((onlyIn_setMover _ m _).mono (by simp))

theorem bound_ready (m : MoverId) (c : CtxId) (mv : Mover) :
    (bound m c mv (leaveReady c s)).sched.ready = s.sched.ready.filter fun d => decide (d ≠ c) := by
  simp [bound]

theorem bound_frame (m : MoverId) (c : CtxId) (mv : Mover) : (bound m c mv (leaveReady c s)).host = s.host ∧
    (bound m c mv (leaveReady c s)).store = s.store ∧ (bound m c mv (leaveReady c s)).lines = s.lines := by
  simp [bound]

theorem bound_mover_other {m j : MoverId} (c : CtxId) (mv : Mover) (hj : j ≠ m) :
    (bound m c mv (leaveReady c s)).mover j = s.mover j := by
  rw [bound, State.setMover_other _ _ _ _ hj]
  exact mover_congr (by simp) j

theorem settledPump_reads (m : MoverId) :
    (settleIdle (pump m s)).host.reads = (askTransfers Config.maxReads m s).host.reads := by simp [pump]

/-- Settles O45: the grant of a writer binds a fresh mover, which asks at once. -/
theorem moverGrant : Obligations.MoverGrant := by
  refine ⟨fun s l => bestOf_spec s l, fun s c o ho => by simp only [rankOf, ho], ?_⟩
  intro s c o b n addr M total hbest hfree ho hb hkind htotal hreads
  obtain ⟨m, hm, -, hexec⟩ := moverGrant_eq hbest hfree ho hb
  let u := bound m c (freshMover c) (leaveReady c s)
  have hgrant : takeGrant m c o b (leaveReady c s) = pump m u := by
    rcases hkind with rfl | rfl <;> rfl
  have hum : u.mover m = some (freshMover c) := State.setMover_same _ _ _
  have huo : u.ctx c = some { o with phase := .moving } := by rw [bound_ctx m c c _ ho, if_pos rfl]
  obtain ⟨d, hd⟩ := pump_mover hum
  have honly : OnlyIn [.hostPort, .scheduler, .movers, .storeController] s (pump m u) :=
    ((onlyIn_bound m c _).mono (by simp)).trans ((onlyIn_pump u m).mono (by simp))
  obtain ⟨huhost, hustore, hulines⟩ : u.host = s.host ∧ u.store = s.store ∧ u.lines = s.lines := bound_frame m c _
  have huout : readsOut m u = 0 :=
    (readsOut_eq_zero_iff m u).2 fun x hx k hk => hreads x (huhost ▸ hx) m k hk hm
  refine ⟨settleIdle (pump m u), m, _, hgrant ▸ hexec, hm, onlyIn_settleIdle s honly, ?_, ?_, fun e => ?_, fun j hj => ?_,
    (settleIdle_mover _ m).trans hd, rfl, rfl, rfl, rfl, hustore ▸ (pump_asks hum hd huo hb).settle, ?_⟩
  · simp [u, bound]
  · rw [settleIdle_ready, (pump_frame u m).2.2.2.1, bound_ready]
  · rw [settleIdle_ctx, ctx_congr (s := u) (by simp), bound_ctx m c e _ ho]
  · rw [settleIdle_mover, pump_mover_other hj, bound_mover_other c _ hj]
  · have hline : u.line n = s.line n := line_congr hulines n
    rw [settledPump_reads]
    rcases hkind with rfl | rfl
    · obtain ⟨-, hr⟩ := askTransfers_deposit Config.maxReads (total := total) (asked := 0)
        (more := min 4 ((total + 511) / 512)) hum huo hb rfl rfl (by rw [hline]; exact htotal) (by simp [freshMover])
        (by rw [huout]; simp only [Config.maxReads]; omega)
      rw [if_pos rfl, hr, huhost, List.drop_left, List.map_map]
      exact List.map_congr_left fun i _ => by simp only [Function.comp_apply, Nat.zero_add]
    · rw [if_neg (by simp), askTransfers_rests u _ ?_, huhost]
      intro mv q k a N hq hqo hqb _ _
      cases hum.symm.trans hq
      cases huo.symm.trans hqo
      cases hb.symm.trans hqb

/-! ### The grant of a TAP -/

/-- Settles O36: R131's closed mark, then R100's bound, else the pin, the mover and its first request. -/
theorem tapGrant : Obligations.TapGrant := by
  intro s c o n addr N wait absolute fld mask hbest hfree ho hb
  obtain ⟨m, hm, -, hexec⟩ := moverGrant_eq hbest hfree ho hb
  let v := leaveReady c s
  let t := grantTap m n c o N v
  have hready : c ∉ v.sched.ready := by simp [v]
  have hflows : Flows s v := flows_leaveReady s c
  have ended : ∀ {p a : Nat}, t = finish c .gone p a v → OnlyIn [.ringFetcher, .scheduler, .lineTable, .movers,
      .storeController, .responseUnit] s (settleIdle t) ∧ (settleIdle t).store.cells = s.store.cells ∧
      (∀ d, d ≠ c → (settleIdle t).ctx d = s.ctx d) ∧ c ∉ (settleIdle t).sched.ready ∧
      EndsWith s c ⟨.gone, p, a⟩ (settleIdle t) ∧ (settleIdle t).movers = s.movers ∧ (settleIdle t).lines = s.lines := by
    intro p a ht
    rw [ht]
    refine ⟨onlyIn_settleIdle s (((onlyIn_setReady s _).mono (by simp)).trans ((onlyIn_finish v _ _ _ _).mono (by simp))),
      by simp [v], fun d hd => ?_, ?_, endsWith_settleIdle s (hflows.endsWith (.of_eq rfl) .gone p a), by simp [v], by simp [v]⟩
    · rw [settleIdle_ctx, finish_other _ _ _ _ hd]
      rfl
    · rw [settled_finish_ready]
      exact hready
  have hgrant : exec .moverGrant s = took t := hexec
  by_cases h1 : n ∈ o.marks ∧ (s.line n).state ≠ .closing
  · obtain ⟨g1, g2, g3, g4, g5, g6, g7⟩ := ended (p := 2 ^ 48 - 1) (a := 3) (if_pos h1)
    refine ⟨_, m, hgrant, hm, g1, g2, fun j _ => line_congr g7 j, g3, g4, ?_⟩
    rw [if_pos h1]
    exact ⟨g5, g6, g7⟩
  by_cases h2 : o.starts.headD 0 < oldestCounting (s.line n)
  · obtain ⟨g1, g2, g3, g4, g5, g6, g7⟩ := ended ((if_neg h1).trans (if_pos h2))
    refine ⟨_, m, hgrant, hm, g1, g2, fun j _ => line_congr g7 j, g3, g4, ?_⟩
    rw [if_neg h1, if_pos h2]
    exact ⟨g5, g6, g7⟩
  let pinned := placePin n ⟨c, o.starts.headD 0, o.starts.headD 0 + N⟩ s
  let mv : Mover := { freshMover c with runs := [⟨n, o.starts.headD 0, N, []⟩] }
  let u := bound m c mv (leaveReady c pinned)
  have ht : t = pump m u := (if_neg h1).trans (if_neg h2)
  have hum : u.mover m = some mv := State.setMover_same _ _ _
  have huctx : ∀ d, u.ctx d = if d = c then some { o with phase := .moving } else s.ctx d := fun d =>
    bound_ctx (s := pinned) m c d mv ho
  have huo : u.ctx c = some { o with phase := .moving } := by rw [huctx, if_pos rfl]
  obtain ⟨huhost, hustore, hulines⟩ := bound_frame (s := pinned) m c mv
  have hpump : pump m u = askStore m u := pump_rests fun q p k a M hq hp hk _ _ => by
    cases hum.symm.trans hq
    cases huo.symm.trans hp
    cases hb.symm.trans hk
  have hmover : (pump m u).mover m = some mv := by
    rw [hpump, mover_congr (askStore_frame u m).2.2.2.2.2.2.2.2.1, hum]
  have hasks := (pump_asks hum hmover huo hb).settle
  rw [hustore] at hasks
  have hlines : t.lines = pinned.lines := by rw [ht, (pump_frame u m).2.2.2.2.1, hulines]
  rw [← ht] at hmover hasks
  have htctx : ∀ d, (settleIdle t).ctx d = u.ctx d := fun d => by
    rw [ht, settleIdle_ctx, ctx_congr (s := u) (by simp)]
  refine ⟨settleIdle t, m, hgrant, hm, ?_, ?_, fun j hj => ?_, fun d hd => ?_, ?_, ?_⟩
  · rw [ht, hpump]
    exact onlyIn_settleIdle s ((((onlyIn_setLine s n _).mono (by simp)).trans ((onlyIn_bound m c mv).mono (by simp)) :
      OnlyIn _ s u).trans ((onlyIn_askStore u m).mono (by simp)))
  · rw [settleIdle_store, ht, (pump_storeFields u m).1, hustore]
    rfl
  · rw [settleIdle_line, line_congr hlines]
    exact State.setLine_other _ _ _ _ hj
  · rw [htctx, huctx, if_neg hd]
  · rw [settleIdle_ready, ht, (pump_frame u m).2.2.2.1, bound_ready]
    simp
  · rw [if_neg h1, if_neg h2]
    refine ⟨by rw [htctx, huo], ?_, mv, by rw [settleIdle_mover, hmover], rfl, rfl, rfl, rfl, hasks⟩
    rw [settleIdle_line, line_congr hlines]
    exact State.setLine_same _ _ _

/-! ### Queries -/

/-- A host write that crosses the top of the address space is two writes (R179). -/
theorem splitWrite_eq (kind : WriteKind) (addr : HostAddr) (bytes : List Byte) : splitWrite kind addr bytes =
    if addr.toNat + bytes.length ≤ 2 ^ 64 then [⟨kind, addr, bytes⟩]
    else [⟨kind, addr, bytes.take (2 ^ 64 - addr.toNat)⟩, ⟨kind, 0, bytes.drop (2 ^ 64 - addr.toNat)⟩] := rfl

theorem splitWrite_length (kind : WriteKind) (addr : HostAddr) (bytes : List Byte) :
    (splitWrite kind addr bytes).length ≤ 2 := by
  rw [splitWrite_eq]
  split <;> simp

/-- The grant of a query gathers its report and touches its context and its mover only (R136, R137). -/
theorem grantQuery_spec {m : MoverId} {c : CtxId} {o : Operation} (ho : s.ctx c = some o) (report : List Byte)
    (pos aux : Nat) {t : State} (ht : t = settleIdle (grantQuery m c report pos aux (leaveReady c s))) :
    OnlyIn [.scheduler, .movers] s t ∧ t.ctx c = some { o with phase := .moving } ∧
      t.mover m = some { freshMover c with report := some (report, pos, aux) } := by
  have hgrant : grantQuery m c report pos aux (leaveReady c s) =
      bound m c { freshMover c with report := some (report, pos, aux) } (leaveReady c s) := rfl
  rw [ht, hgrant]
  exact ⟨onlyIn_settleIdle s (onlyIn_bound m c _), by rw [settleIdle_ctx, bound_ctx m c c _ ho, if_pos rfl],
    by rw [settleIdle_mover]; exact State.setMover_same _ _ _⟩

/-- The start of a query (R136, R137). -/
theorem queryStart_spec (s : State) (c : CtxId) {t : State} (ht : t = settleIdle (makeReady c s)) :
    OnlyIn [.scheduler] s t ∧ t.sched.ready = s.sched.ready ++ [c] ∧
      ∀ d, t.ctx d = if d = c then (s.ctx c).map (fun o => { o with phase := .ready }) else s.ctx d := by
  subst ht
  exact ⟨onlyIn_settleIdle s (onlyIn_makeReady s c), settleIdle_ready _,
    fun d => by rw [settleIdle_ctx, makeReady_ctx]⟩

/-- Settles O46: its start, its grant, and the hand-over of its report. -/
theorem queries : Obligations.Queries := by
  refine ⟨fun s c cmd b hstart hkind => ⟨_, ?_, queryStart_spec s c rfl⟩, ?_, ?_⟩
  · rcases hkind with ⟨n, addr, rfl, rfl⟩ | ⟨addr, rfl, rfl⟩
    · simp only [exec, execQueryLine, hstart, took_eq]
    · simp only [exec, execQueryStore, hstart, took_eq]
  · intro s c o b report pos aux hbest hfree ho hb hkind
    obtain ⟨m, hm, -, hexec⟩ := moverGrant_eq hbest hfree ho hb
    have hgrant : takeGrant m c o b (leaveReady c s) = grantQuery m c report pos aux (leaveReady c s) := by
      rcases hkind with ⟨n, addr, rfl, rfl, rfl, rfl⟩ | ⟨addr, rfl, rfl, rfl, rfl⟩ <;> rfl
    obtain ⟨h1, h2, h3⟩ := grantQuery_spec (m := m) ho report pos aux rfl
    exact ⟨_, m, _, hgrant ▸ hexec, hm, h1, h2, h3, rfl, rfl⟩
  · intro s m mv o b addr bytes pos aux hm hreport ho hb hkind hwait hroom
    let ws := splitWrite .report addr bytes
    let u := (takePlace (.report m) ws s).setMover m none
    let v := finish mv.ctx .ok pos aux u
    have hws : reportWrites b bytes = ws := by
      rcases hkind with ⟨n, rfl⟩ | rfl <;> rfl
    have hplace : hasPlace (.report m) ws.length s = true := by
      have := splitWrite_length .report addr bytes
      simp only [hasPlace, hwait, Config.writeQueue, Bool.and_eq_true]
      exact ⟨decide_eq_true (by simp only [ws]; omega), rfl⟩
    have hexec : exec (.reportWrite m) s = took (pumpAll v) := by
      simp only [exec, execReportWrite, hm, ho, hb, hreport, Option.bind_some, hws, hplace, if_true]
      rfl
    have huonly : OnlyIn [.hostPort, .movers] s u :=
      ((onlyIn_setHost s _).mono (by simp)).trans ((onlyIn_setMover _ m none).mono (by simp))
    have huq : u.host.writeQ = s.host.writeQ ++ ws := by simp [u, takePlace, hwait, letIn]
    refine ⟨settleIdle (pumpAll v), hexec, onlyIn_settleIdle s ((huonly.mono (by simp)).trans
      (((onlyIn_finish u _ _ _ _).mono (by simp)).trans ((onlyIn_pumpAll v).mono (by simp)))), ?_, ?_, ?_⟩
    · rw [← splitWrite_eq]
      simpa [v] using huq
    · rw [settleIdle_mover]
      exact pumpAll_free ((mover_congr (finish_frame u _ _ _ _).2.2.2.2.2.2.1 m).trans (State.setMover_same _ _ _))
    · have hflows : Flows s u := .of_same rfl rfl
      exact endsWith_settleIdle s ((hflows.endsWith (.of_eq rfl) .ok pos aux).after (flows_pumpAll v)
        (ctx_congr (by simp [v]) mv.ctx))

end Sys2Proof.Machine

/-! PROOF. The ends of store accesses: the marks of a write burst, what a read burst delivers, what its mover hands over
to the host (R31, R33 to R35, R101 to R103, R120 to R122). -/

namespace Sys2Proof.Machine

variable {s : State}

/-! ### The words of a burst and their marks -/

theorem mem_wordsOf (addr len w : Nat) : w ∈ wordsOf addr len ↔ len ≠ 0 ∧ 32 * w < addr + len ∧ addr < 32 * (w + 1) := by
  unfold wordsOf
  split
  · next h => simp [h]
  · next h =>
    simp only [List.mem_range'_1, Config.wordBytes]
    omega

/-- The marks of a store stand in ascending order of their words (R34). -/
def MarksOk (marks : List (Nat × Flip)) : Prop := marks.Pairwise fun x y => x.1 < y.1

theorem markOf_of_lt {marks : List (Nat × Flip)} {w : Nat} (h : ∀ x ∈ marks, w < x.1) : markOf marks w = none := by
  induction marks with
  | nil => rfl
  | cons x xs ih =>
    have hne : w ≠ x.1 := (h x (by simp)).ne
    simp only [markOf, hne, if_false]
    exact ih fun y hy => h y (List.mem_cons_of_mem _ hy)

/-- A mark cleared is gone, and every other mark stays (R35). -/
theorem markOf_clearMark {marks : List (Nat × Flip)} (h : MarksOk marks) (w v : Nat) :
    markOf (clearMark marks w) v = if v = w then none else markOf marks v := by
  induction marks with
  | nil => simp [clearMark, markOf]
  | cons x xs ih =>
    obtain ⟨hx, hxs⟩ := List.pairwise_cons.1 h
    unfold clearMark
    by_cases hw : w = x.1
    · subst hw
      rw [if_pos rfl]
      split
      · next hv => subst hv; exact markOf_of_lt hx
      · next hv => simp only [markOf, hv, if_false]
    · rw [if_neg hw]
      simp only [markOf, ih hxs]
      by_cases hv : v = x.1
      · subst hv
        simp [Ne.symm hw]
      · simp [hv]

theorem clearMark_sublist (marks : List (Nat × Flip)) (w : Nat) : (clearMark marks w).Sublist marks := by
  induction marks with
  | nil => exact .refl _
  | cons x xs ih =>
    unfold clearMark
    split
    · exact List.sublist_cons_self _ _
    · exact ih.cons_cons _

theorem MarksOk.clearMark {marks : List (Nat × Flip)} (h : MarksOk marks) (w : Nat) : MarksOk (clearMark marks w) :=
  h.sublist (clearMark_sublist marks w)

theorem mem_putMark {marks : List (Nat × Flip)} {w : Nat} {e : Flip} {y : Nat × Flip} (h : y ∈ putMark marks w e) :
    y = (w, e) ∨ y ∈ marks := by
  induction marks with
  | nil => simpa [putMark] using h
  | cons x xs ih =>
    unfold putMark at h
    split at h
    · simpa using h
    · split at h
      · rcases List.mem_cons.1 h with h | h
        · exact .inl h
        · exact .inr (List.mem_cons_of_mem _ h)
      · rcases List.mem_cons.1 h with h | h
        · exact .inr (by simp [h])
        · exact (ih h).imp id (List.mem_cons_of_mem _)

theorem MarksOk.putMark {marks : List (Nat × Flip)} (h : MarksOk marks) (w : Nat) (e : Flip) :
    MarksOk (putMark marks w e) := by
  induction marks with
  | nil => exact List.pairwise_singleton _ _
  | cons x xs ih =>
    obtain ⟨hx, hxs⟩ := List.pairwise_cons.1 h
    unfold Machine.putMark
    split
    · next hlt =>
      exact List.pairwise_cons.2 ⟨by simpa using ⟨hlt, fun a b hab => hlt.trans (hx _ hab)⟩, h⟩
    · next hlt =>
      split
      · next he => subst he; exact List.pairwise_cons.2 ⟨hx, hxs⟩
      · next hne =>
        refine List.pairwise_cons.2 ⟨fun y hy => ?_, ih hxs⟩
        rcases mem_putMark hy with rfl | hy
        · exact lt_of_le_of_ne (Nat.not_lt.1 hlt) (Ne.symm hne)
        · exact hx y hy

theorem MarksOk.addFlips {marks : List (Nat × Flip)} (h : MarksOk marks) (flips : List (Nat × Flip)) :
    MarksOk (flips.foldl addFlip marks) := by
  induction flips generalizing marks with
  | nil => exact h
  | cons x xs ih =>
    refine ih ?_
    unfold addFlip
    split
    · exact h
    · exact h.putMark _ _

/-- What a write burst does to the mark of one of its words (R35). -/
def repairs (addr len : Nat) (marks : List (Nat × Flip)) (w : Nat) : List (Nat × Flip) :=
  if coversWord addr len w then clearMark marks w else if markOf marks w = some .single then clearMark marks w else marks

theorem marksOk_repairs {marks : List (Nat × Flip)} (h : MarksOk marks) (addr len w : Nat) :
    MarksOk (repairs addr len marks w) := by
  unfold repairs
  split
  · exact h.clearMark w
  · split
    · exact h.clearMark w
    · exact h

theorem markOf_repairs {marks : List (Nat × Flip)} (h : MarksOk marks) (addr len w v : Nat) :
    markOf (repairs addr len marks w) v =
      if v = w ∧ (coversWord addr len w = true ∨ markOf marks w = some .single) then none else markOf marks v := by
  unfold repairs
  by_cases h1 : coversWord addr len w = true
  · simp [h1, markOf_clearMark h]
  · by_cases h2 : markOf marks w = some .single
    · simp [h1, h2, markOf_clearMark h]
    · simp [h1, h2]

/-- The marks after a write burst, word by word (R35). -/
theorem markOf_repaired {marks : List (Nat × Flip)} (h : MarksOk marks) (addr len : Nat) (ws : List Nat) (v : Nat) :
    markOf (ws.foldl (repairs addr len) marks) v =
      if v ∈ ws ∧ (coversWord addr len v = true ∨ markOf marks v = some .single) then none else markOf marks v := by
  induction ws generalizing marks with
  | nil => simp
  | cons w ws ih =>
    rw [List.foldl_cons, ih (marksOk_repairs h addr len w), markOf_repairs h]
    by_cases hv : v = w
    · subst hv
      by_cases hc : coversWord addr len v = true ∨ markOf marks v = some .single
      · simp [hc]
      · simp [hc]
    · simp [hv]

theorem coversWord_iff (addr len w : Nat) : coversWord addr len w = true ↔ addr ≤ 32 * w ∧ 32 * (w + 1) ≤ addr + len := by
  rw [coversWord, Bool.and_eq_true, decide_eq_true_iff, decide_eq_true_iff]
  rfl

theorem marksAfterWrite_eq (marks : List (Nat × Flip)) (addr len : Nat) :
    marksAfterWrite marks addr len = (wordsOf addr len).foldl (repairs addr len) marks := rfl

/-- A mover whose write burst has been stored touches no byte, mark or count of the store (R79). -/
theorem stored_store (m : MoverId) (len : Nat) (u : State) :
    OnlyIn [.hostPort, .movers, .storeController] u (stored m len u) ∧ (stored m len u).store.busy = u.store.busy ∧
      (stored m len u).store.cells = u.store.cells ∧ (stored m len u).store.marks = u.store.marks ∧
      (stored m len u).store.corrected = u.store.corrected := by
  unfold stored
  split
  · exact ⟨onlyIn_refl u _, rfl, rfl, rfl, rfl⟩
  · refine ⟨((onlyIn_setMover u m _).mono (by simp)).trans (onlyIn_pump _ m), ?_⟩
    simp

/-- A mover whose write burst has been stored, and what it asks for next (R79, R122). -/
theorem stored_mover {m : MoverId} {mv : Mover} (len : Nat) {u : State} (hm : u.mover m = some mv) :
    ∃ d, (stored m len u).mover m = some { mv with written := mv.written + len, hostDone := d } ∧
      ∀ (o : Operation) (b : Body), u.ctx mv.ctx = some o → o.body = some b →
        AsksStore u.store.waiting m { mv with written := mv.written + len, hostDone := d } o b (stored m len u) := by
  let v := u.setMover m (some { mv with written := mv.written + len })
  have hv : v.mover m = some { mv with written := mv.written + len } := State.setMover_same _ _ _
  have hstored : stored m len u = pump m v := by simp only [stored, hm, v]
  obtain ⟨d, hd⟩ := pump_mover hv
  rw [hstored]
  exact ⟨d, hd, fun o b ho hb => pump_asks (o := o) (b := b) hv hd ho hb⟩

/-- The store after a write burst, before its mover goes on (R35). -/
def burstStored (a : Access) (bytes : List Byte) (marks : List (Nat × Flip)) (s : State) : State :=
  s.setStore
    { s.store with
      busy := none
      cells := Memory.writeBytes s.store.cells a.addr bytes
      marks := marksAfterWrite marks a.addr bytes.length
      corrected := countUp s.store.corrected (singleWords marks (partWords a.addr bytes.length)).length }

theorem writeBurstDone_eq (a : Access) (bytes : List Byte) (marks : List (Nat × Flip)) (s : State) :
    writeBurstDone a bytes (s.setStore { s.store with marks := marks }) =
      match a.mover with
      | none => burstStored a bytes marks s
      | some m => stored m bytes.length (burstStored a bytes marks s) := rfl

/-- The marks a write burst leaves, as R35 says them. -/
theorem markOf_burst {marks : List (Nat × Flip)} (h : MarksOk marks) (addr : Nat) (bytes : List Byte) (w : Nat) :
    markOf (marksAfterWrite marks addr bytes.length) w =
      if addr ≤ 32 * w ∧ 32 * (w + 1) ≤ addr + bytes.length then none
      else if 32 * w < addr + bytes.length ∧ addr < 32 * (w + 1) ∧ bytes ≠ [] ∧ markOf marks w = some .single then none
      else markOf marks w := by
  rw [marksAfterWrite_eq, markOf_repaired h]
  simp only [coversWord_iff]
  have hnil : bytes ≠ [] ↔ bytes.length ≠ 0 := by simp
  by_cases h1 : addr ≤ 32 * w ∧ 32 * (w + 1) ≤ addr + bytes.length
  · rw [if_pos h1, if_pos ⟨(mem_wordsOf _ _ _).2 (by omega), .inl h1⟩]
  · rw [if_neg h1]
    refine if_congr ⟨fun ⟨hw, hm⟩ => ?_, fun ⟨g1, g2, g3, g4⟩ => ?_⟩ rfl rfl
    · obtain ⟨g1, g2, g3⟩ := (mem_wordsOf _ _ _).1 hw
      exact ⟨g2, g3, hnil.2 g1, hm.resolve_left h1⟩
    · exact ⟨(mem_wordsOf _ _ _).2 ⟨hnil.1 g3, g1, g2⟩, .inr g4⟩

/-- The words a write burst counts as corrected (R33, R35). -/
theorem repaired_words (marks : List (Nat × Flip)) (addr len : Nat) : singleWords marks (partWords addr len) =
    (wordsOf addr len).filter fun w =>
      decide (¬(addr ≤ 32 * w ∧ 32 * (w + 1) ≤ addr + len) ∧ markOf marks w = some .single) := by
  rw [singleWords, partWords, List.filter_filter]
  refine List.filter_congr fun w _ => ?_
  rw [Bool.eq_iff_iff]
  simp only [Bool.and_eq_true, Bool.not_eq_true', decide_eq_true_eq, ← Bool.not_eq_true, coversWord_iff]
  exact and_comm

/-- Settles O24: the bytes, the marks and the count by the store's own operations, and the mover's next request. -/
theorem writeBurst : Obligations.WriteBurst := by
  intro s a bytes flips marks hbusy hwrite hok hsorted hmarks
  let u := burstStored a bytes marks s
  let t := writeBurstDone a bytes (s.setStore { s.store with marks := marks })
  have hexec : exec (.storeAccessComplete flips) s = took t := by
    simp only [exec, execStoreAccessComplete, hbusy, hwrite, t, hmarks]
  have hmarksOk : MarksOk marks := hmarks ▸ MarksOk.addFlips hsorted flips
  have ht : OnlyIn [.hostPort, .movers, .storeController] u t ∧ t.store.busy = none ∧ t.store.cells = u.store.cells ∧
      t.store.marks = u.store.marks ∧ t.store.corrected = u.store.corrected := by
    simp only [t, writeBurstDone_eq]
    cases a.mover with
    | none => exact ⟨onlyIn_refl u _, rfl, rfl, rfl, rfl⟩
    | some m => exact stored_store m _ u
  obtain ⟨honly, htbusy, hcells, htmarks, hcount⟩ := ht
  have hu : OnlyIn [.hostPort, .movers, .storeController] s u := (onlyIn_setStore s _).mono (by simp)
  refine ⟨settleIdle t, hexec, onlyIn_settleIdle s (hu.trans honly), ?_⟩
  rw [settleIdle_store, htbusy, hcells, htmarks, hcount]
  refine ⟨rfl, fun x hx => Memory.read_writeBytes_outside _ _ hx, fun i hi => Memory.read_writeBytes_inside _ _ i hok.1 hi,
    markOf_burst hmarksOk a.addr bytes, ?_, fun m mv ham hm => ?_⟩
  · rw [← repaired_words]
    rfl
  · obtain ⟨d, hd, hasks⟩ := stored_mover (u := u) bytes.length (show u.mover m = some mv from hm)
    have hstored : t = stored m bytes.length u := by simp only [t, writeBurstDone_eq, ham, u]
    rw [hstored]
    exact ⟨_, (settleIdle_mover _ m).trans hd, rfl, rfl, rfl, rfl, rfl, rfl, fun o b ho hb => (hasks o b ho hb).settle⟩

/-! ### The ends of host reads -/

/-- A fetch whose read has failed is over, and its ring stops if it may (R49). -/
theorem fetchFailed_eq {u : State} {f : Fetch} (hf : u.fetcher.fetch = some f) :
    fetchFailed u = stopRing f.ring .fetchFault (u.setFetch none) := by
  simp only [fetchFailed, hf]

/-- The lower of two failing addresses is kept (R86). -/
def lowerAddr (x : Option HostAddr) (a : HostAddr) : HostAddr :=
  match x with
  | none => a
  | some b => if b.toNat ≤ a.toNat then b else a

theorem lowerAddr_spec (x : Option HostAddr) (a : HostAddr) : (lowerAddr x a = a ∨ x = some (lowerAddr x a)) ∧
    (lowerAddr x a).toNat ≤ a.toNat ∧ ∀ b, x = some b → (lowerAddr x a).toNat ≤ b.toNat := by
  cases x with
  | none => exact ⟨.inl rfl, le_rfl, fun b h => by cases h⟩
  | some b =>
    unfold lowerAddr
    by_cases h : b.toNat ≤ a.toNat
    · simp only [h, if_true, true_and]
      exact ⟨.inr trivial, fun c hc => by cases hc; exact le_rfl⟩
    · simp only [h, if_false]
      exact ⟨.inl trivial, le_rfl, fun c hc => by cases hc; omega⟩

theorem transferFailed_eq {u : State} {m : MoverId} {mv : Mover} (hm : u.mover m = some mv) (a : HostAddr) :
    transferFailed m a u = u.setMover m (some { mv with failedAt := some (lowerAddr mv.failedAt a) }) := by
  simp only [transferFailed, hm]
  rfl

theorem onlyIn_readFailed (x : HostRead) (u : State) :
    OnlyIn [.ringFetcher, .responseUnit, .movers] u (readFailed x u) := by
  unfold readFailed
  split
  · cases hf : u.fetcher.fetch with
    | none => simp only [fetchFailed, hf]; exact onlyIn_refl u _
    | some f =>
      rw [fetchFailed_eq hf]
      exact ((onlyIn_setFetch u none).mono (by simp)).trans ((onlyIn_stopRing _ _ _).mono (by simp))
  · next m k _ =>
    cases hm : u.mover m with
    | none => simp only [transferFailed, hm]; exact onlyIn_refl u _
    | some mv => rw [transferFailed_eq hm]; exact (onlyIn_setMover u m _).mono (by simp)
  · exact onlyIn_refl u _

theorem askedBy_eq (m : MoverId) (x : HostRead) : askedBy m x = match x.requester with
    | .mover j _ => decide (j = m)
    | .fetch => false
    | .nobody => false := by
  cases h : x.requester <;> simp [askedBy, h]

/-- A DEPOSIT's transfer that has come in time (R79, R86). -/
theorem transferArrived_eq {u : State} {m : MoverId} {mv : Mover} (hm : u.mover m = some mv) (k : Nat) (bytes : List Byte) :
    transferArrived m k bytes u =
      if mv.failedAt.isSome = true then u
      else pump m (u.setMover m (some { mv with arrived := mv.arrived ++ [(k, bytes)] })) := by
  simp only [transferArrived, hm]

/-- Settles O30: a failed read touches the fetch or the mover it was for; one that came lets the mover go on. -/
theorem hostReadEnds : Obligations.HostReadEnds := by
  constructor
  · intro s n x c hx hc
    let u := dropRead n s
    have hexec : exec c s = took (readFailed x u) := by
      rcases hc with rfl | ⟨rfl, at', hat, hle⟩ | ⟨bytes, at', rfl, hlen, hat, hlt⟩
      · simp only [exec, execHostReadError, hx, u]
      · have hdue : x.issued.getD s.now + Config.readTimeout ≤ s.now := by simpa [hat, Config.readTimeout] using hle
        simp only [exec, execHostReadTimeout, hx, hdue, if_true, u]
      · have hlate : overdue x s = true := (overdue_iff s hat).2 hlt
        simp only [exec, execHostReadComplete, hx, hlen, hlate, if_true, u]
    refine ⟨settleIdle (readFailed x u), hexec, onlyIn_settleIdle s (((onlyIn_setHost s _).mono (by simp)).trans
      ((onlyIn_readFailed x u).mono (by simp))), ?_, fun f hreq hf => ?_, fun m k mv hreq hm => ?_⟩
    · rw [(settleIdle_hostFields _).2.2.2.2.2.2.2.2.2.2.2.2.2.2.2.1, (readFailed_frame u x).2.2.1]
      rfl
    · have hfail : readFailed x u = stopRing f.ring .fetchFault (u.setFetch none) := by
        simp only [readFailed, hreq]
        exact fetchFailed_eq hf
      rw [hfail]
      have hring : (u.setFetch none).ring f.ring = s.ring f.ring := rfl
      refine ⟨by simp, ?_, by simp [u, dropRead], ?_⟩
      · rw [settleIdle_ring]
        by_cases hstop : (s.ring f.ring).state = .running ∨ (s.ring f.ring).state = .paused
        · rw [(stopRing_stops (u.setFetch none) .fetchFault hstop).2.2.1, hring]
        · rw [stopRing_other (u.setFetch none) .fetchFault (fun h => hstop (.inl h)) (fun h => hstop (.inr h)), hring]
      · rw [settleIdle_ring]
        split
        · next hstop =>
          obtain ⟨h1, h2, -⟩ := stopRing_stops (u.setFetch none) .fetchFault hstop
          exact ⟨h1, h2⟩
        · next hstop =>
          rw [stopRing_other (u.setFetch none) .fetchFault (fun h => hstop (.inl h)) (fun h => hstop (.inr h)), hring]
    · have hfail : readFailed x u =
          u.setMover m (some { mv with failedAt := some (lowerAddr mv.failedAt x.addr) }) := by
        simp only [readFailed, hreq]
        exact transferFailed_eq (u := u) hm x.addr
      rw [hfail]
      obtain ⟨h1, h2, h3⟩ := lowerAddr_spec mv.failedAt x.addr
      exact ⟨by simp [u, dropRead], by simp [u, dropRead], _, by rw [settleIdle_mover, State.setMover_same], h1, h2, h3⟩
  · intro s n k m mv x bytes hx hreq hlen htime hm
    let u := dropRead n s
    have hum : u.mover m = some mv := hm
    have hlate : overdue x s = false := by
      unfold overdue
      cases hi : x.issued with
      | none => simp
      | some at' => exact decide_eq_false (Nat.not_lt.2 (htime at' hi))
    have hexec : exec (.hostReadComplete n bytes) s = took (transferArrived m k bytes u) := by
      simp only [exec, execHostReadComplete, hx, hlen, hlate, if_true, readArrived, hreq, u, Bool.false_eq_true, if_false]
    have hu : OnlyIn [.hostPort] s u := onlyIn_setHost s _
    by_cases hf : mv.failedAt.isSome = true
    · have harrived : transferArrived m k bytes u = u := by rw [transferArrived_eq hum, if_pos hf]
      rw [harrived] at hexec
      refine ⟨settleIdle u, mv, hexec, onlyIn_settleIdle s (hu.mono (by simp)), by simp [u, dropRead],
        (settleIdle_mover _ m).trans hum, rfl, rfl, rfl, by rw [if_pos hf], fun _ => by simp [u, dropRead], fun o b _ _ => ?_,
        fun o l addr M total asked more left _ _ _ hnone => by rw [hnone] at hf; cases hf⟩
      refine ⟨fun _ => by simp [u, dropRead], fun h => absurd ?_ h⟩
      exact .inr (.inr (.inr (.inr (.inr hf))))
    · let mv1 : Mover := { mv with arrived := mv.arrived ++ [(k, bytes)] }
      let v := u.setMover m (some mv1)
      have hvm : v.mover m = some mv1 := State.setMover_same _ _ _
      have harrived : transferArrived m k bytes u = pump m v := by rw [transferArrived_eq hum, if_neg hf]
      rw [harrived] at hexec
      obtain ⟨d, hd⟩ := pump_mover hvm
      refine ⟨settleIdle (pump m v), _, hexec, onlyIn_settleIdle s ((hu.mono (by simp)).trans
        (((onlyIn_setMover u m _).mono (by simp)).trans (onlyIn_pump v m))), ?_, (settleIdle_mover _ m).trans hd, rfl, rfl, rfl,
        by rw [if_neg hf], fun h => absurd h hf, fun o b ho hb => (pump_asks (o := o) (b := b) hvm hd ho hb).settle, ?_⟩
      · rw [settleIdle_store, (pump_storeFields v m).1]
        rfl
      · intro o l addr M total asked more left ho hb hp hnone htotal hdone hleft hmore
        have hout : readsOut m v = left.countP fun y => match y.requester with
            | .mover j _ => decide (j = m)
            | .fetch => false
            | .nobody => false := by
          rw [List.countP_eq_length_filter, hleft]
          exact congrArg List.length (List.filter_congr fun y _ => by rw [askedBy_eq])
        have hmore' : more = min ((total + 511) / 512 - asked) (4 - readsOut m v) :=
          hmore.trans (congrArg (fun z => min ((total + 511) / 512 - asked) (4 - z)) hout.symm)
        obtain ⟨h1, h2⟩ := askTransfers_deposit Config.maxReads (s := v) (more := more) hvm ho hb hp hnone htotal hdone
          (by simp only [Config.maxReads]; omega)
        rw [pump, mover_congr (askStore_frame _ m).2.2.2.2.2.2.2.2.1, h1] at hd
        refine ⟨(congrArg Mover.hostDone (Option.some.inj hd)).symm, ?_⟩
        rw [settledPump_reads, h2, hleft]
        rfl

end Sys2Proof.Machine

/-! PROOF. The end of a fetch: the first slot, the second, the record taken or dropped (R47, R48, R50). -/

namespace Sys2Proof.Machine

variable {s : State}

/-- A ring and its new context once a record is taken, before the outcome of its decode (R48, R54). -/
def withRecord (f : Fetch) (bytes : List Byte) (s : State) : State :=
  ((s.setFetch none).setRing f.ring
    { s.ring f.ring with
      take := ((s.ring f.ring).take + byteAt bytes 1) % (s.ring f.ring).size
      window := (s.ring f.ring).window ++ [f.ctx] }).setCtx f.ctx
    (some (newOperation f.ring (s.ring f.ring).take (byteAt bytes 1) bytes))

theorem takeRecord_record {f : Fetch} {bytes : List Byte} {r : Record} (h : decodeRecord f.ring bytes = .record r) :
    takeRecord f bytes s = withRecord f bytes s := by
  simp only [takeRecord, h]
  rfl

theorem takeRecord_fails {f : Fetch} {bytes : List Byte} {st : Status} {aux : Nat}
    (h : (decodeRecord f.ring bytes = .badRecord aux ∧ st = .badRecord) ∨
      (decodeRecord f.ring bytes = .wrongRing ∧ st = .wrongRing ∧ aux = 0)) :
    takeRecord f bytes s = finish f.ctx st 0 aux (withRecord f bytes s) := by
  rcases h with ⟨h, rfl⟩ | ⟨h, rfl, rfl⟩ <;> simp only [takeRecord, h] <;> rfl

/-- The tag and the flags of a record that passes decode are those of its header (R50, R65). -/
theorem record_header {k : RingId} {bytes : List Byte} {r : Record} (h : decodeRecord k bytes = .record r) :
    r.tag = BitVec.ofNat 16 (field bytes 4 2) := by
  obtain ⟨kind, -, -, rfl⟩ := decodeRecord_eq_record h
  rfl

/-- The context of a record that passes decode (R50, R54). -/
theorem newOperation_record {k : RingId} {take slots : Nat} {bytes : List Byte} {r : Record}
    (h : decodeRecord k bytes = .record r) : newOperation k take slots bytes =
      { ring := k, take := take, slots := slots, tag := r.tag, fence := r.fence, noIrq := r.noIrq, body := some r.body,
        phase := .waiting, starts := [], deadline := none, waitTap := 0, marks := [], stage := none, ended := 0,
        result := none } := by
  simp only [newOperation, h, record_header h]

/-- A record that fails decode has no flags: its context is settled at once (R50). -/
theorem newOperation_fails {k : RingId} {take slots : Nat} {bytes : List Byte}
    (h : ∀ r, decodeRecord k bytes ≠ .record r) : (newOperation k take slots bytes).noIrq = false ∧
      (newOperation k take slots bytes).ring = k := by
  unfold newOperation
  cases hd : decodeRecord k bytes with
  | record r => exact absurd hd (h r)
  | badRecord aux => exact ⟨rfl, rfl⟩
  | wrongRing => exact ⟨rfl, rfl⟩

/-- What a record taken leaves (R48, R50, R54). -/
structure Taken (s : State) (f : Fetch) (all : List Byte) (t : State) : Prop where
  only : OnlyIn [.ringFetcher, .scheduler, .responseUnit] s t
  rings : ∀ j, j ≠ f.ring → t.ring j = s.ring j
  ctxs : ∀ c, c ≠ f.ctx → t.ctx c = s.ctx c
  fetch : t.fetcher.fetch = none
  take : (t.ring f.ring).take = ((s.ring f.ring).take + byteAt all 1) % (s.ring f.ring).size
  passes : ∀ r, decodeRecord f.ring all = .record r →
    (t.ring f.ring).window = (s.ring f.ring).window ++ [f.ctx] ∧ t.resp = s.resp ∧
      ∃ o, t.ctx f.ctx = some o ∧ o.phase = .waiting ∧ o.body = some r.body ∧ o.tag = r.tag ∧ o.fence = r.fence ∧
        o.noIrq = r.noIrq ∧ o.ring = f.ring ∧ o.take = (s.ring f.ring).take ∧ o.slots = byteAt all 1
  fails : ∀ st aux, (decodeRecord f.ring all = .badRecord aux ∧ st = .badRecord) ∨
      (decodeRecord f.ring all = .wrongRing ∧ st = Status.wrongRing ∧ aux = 0) →
    if (s.respRing (s.ring f.ring).resp).state = .active then
      ∃ o, t.ctx f.ctx = some o ∧ o.phase = .done ∧ o.result = some ⟨st, 0, aux⟩ ∧ o.noIrq = false ∧
        t.resp.posts = s.resp.posts ++ [⟨(s.ring f.ring).resp, .completion f.ctx⟩]
    else t.ctx f.ctx = none

theorem onlyIn_withRecord (f : Fetch) (all : List Byte) :
    OnlyIn [.ringFetcher, .scheduler, .responseUnit] s (withRecord f all s) :=
  (((onlyIn_setFetch s none).mono (by simp)).trans ((onlyIn_setRing _ f.ring _).mono (by simp))).trans
    ((onlyIn_setCtx _ f.ctx _).mono (by simp))

theorem withRecord_ring (f : Fetch) (all : List Byte) (j : RingId) : (withRecord f all s).ring j =
    if j = f.ring then
      { s.ring f.ring with
        take := ((s.ring f.ring).take + byteAt all 1) % (s.ring f.ring).size
        window := (s.ring f.ring).window ++ [f.ctx] }
    else s.ring j := by
  split
  · next h => subst h; exact State.setRing_same _ _ _
  · next h => exact State.setRing_other (s.setFetch none) _ _ _ h

theorem withRecord_ctx (f : Fetch) (all : List Byte) (c : CtxId) : (withRecord f all s).ctx c =
    if c = f.ctx then some (newOperation f.ring (s.ring f.ring).take (byteAt all 1) all) else s.ctx c := by
  unfold withRecord
  split
  · next h => subst h; simp
  · next h => simp [h]

theorem taken_of_fails (f : Fetch) {all : List Byte} {st : Status} {aux : Nat}
    (h : (decodeRecord f.ring all = .badRecord aux ∧ st = .badRecord) ∨
      (decodeRecord f.ring all = .wrongRing ∧ st = .wrongRing ∧ aux = 0)) : Taken s f all (takeRecord f all s) := by
  rw [takeRecord_fails h]
  have hrecord : ∀ r, decodeRecord f.ring all ≠ .record r := fun r hr => by
    rcases h with ⟨h, -⟩ | ⟨h, -⟩ <;> cases h.symm.trans hr
  obtain ⟨hirq, hring⟩ := newOperation_fails (take := (s.ring f.ring).take) (slots := byteAt all 1) hrecord
  let u := withRecord f all s
  let o := newOperation f.ring (s.ring f.ring).take (byteAt all 1) all
  have ho : u.ctx f.ctx = some o := by rw [withRecord_ctx, if_pos rfl]
  have hresp : (u.ring o.ring).resp = (s.ring f.ring).resp := by rw [hring, withRecord_ring, if_pos rfl]
  refine ⟨(onlyIn_withRecord f all).trans ((onlyIn_finish u _ _ _ _).mono (by simp)), fun j hj => ?_, fun c hc => ?_,
    by simp [withRecord], ?_, fun r hr => absurd hr (hrecord r), fun st' aux' h' => ?_⟩
  · rw [finish_ring_other u ho st 0 aux (by rw [hring]; exact hj), withRecord_ring, if_neg hj]
  · rw [finish_other u st 0 aux hc, withRecord_ctx, if_neg hc]
  · rw [finish_ring, withRecord_ring, if_pos rfl]
  · have hsame : st' = st ∧ aux' = aux := by
      rcases h with ⟨h, rfl⟩ | ⟨h, rfl, rfl⟩ <;> rcases h' with ⟨h', rfl⟩ | ⟨h', rfl, rfl⟩ <;> cases h.symm.trans h' <;>
        exact ⟨rfl, rfl⟩
    rw [hsame.1, hsame.2]
    have hstate : (u.respRing (u.ring o.ring).resp).state = (s.respRing (s.ring f.ring).resp).state := by rw [hresp]; rfl
    split
    · next ha =>
      rw [finish_active u st 0 aux ho (hstate.trans ha)]
      exact ⟨{ o with phase := .done, stage := none, result := some ⟨st, 0, aux⟩ },
        by rw [State.setPosts_ctx, State.setCtx_same], rfl, rfl, hirq, by rw [hresp]; rfl⟩
    · next ha =>
      rw [finish_discarded u st 0 aux ho (hstate ▸ ha), freeCtx_same]

theorem takeRecord_taken (f : Fetch) (all : List Byte) : Taken s f all (takeRecord f all s) := by
  cases hd : decodeRecord f.ring all with
  | record r =>
    rw [takeRecord_record hd]
    refine ⟨onlyIn_withRecord f all, fun j hj => by rw [withRecord_ring, if_neg hj],
      fun c hc => by rw [withRecord_ctx, if_neg hc], rfl, by rw [withRecord_ring, if_pos rfl], fun r' hr => ?_,
      fun st aux h => by rcases h with ⟨h, -⟩ | ⟨h, -⟩ <;> rw [hd] at h <;> cases h⟩
    cases hd.symm.trans hr
    refine ⟨by rw [withRecord_ring, if_pos rfl], rfl, _, by rw [withRecord_ctx, if_pos rfl, newOperation_record hd], ?_⟩
    simp
  | badRecord aux => exact taken_of_fails f (.inl ⟨hd, rfl⟩)
  | wrongRing => exact taken_of_fails f (.inr ⟨hd, rfl, rfl⟩)

/-! ### The first slot -/

theorem endFetch_eq (f : Fetch) (all : List Byte) : endFetch f all s =
    if (s.ring f.ring).state = .running ∨ (s.ring f.ring).state = .paused then takeRecord f all s
    else s.setFetch none := by
  split
  · next h => exact endFetch_taken s all ((takesRecords_iff _).2 h)
  · next h => exact endFetch_dropped s all (Bool.eq_false_iff.2 (mt (takesRecords_iff _).1 h))

/-- The end of a fetch's reads, whole (R47, R48). -/
theorem fetchArrived_eq {f : Fetch} {bytes all : List Byte} (hf : s.fetcher.fetch = some f)
    (hall : all = f.first.getD [] ++ bytes) : fetchArrived bytes s =
    if f.first = none ∧ slotsAllowed (bytes.getD 0 0) (byteAt bytes 1) = false then
      stopRing f.ring .badSlots (s.setFetch none)
    else if f.first = none ∧ byteAt bytes 1 ≠ 1 then
      if 2 ≤ postedSlots (s.ring f.ring) then
        askRead .fetch (slotAddr (s.ring f.ring) (((s.ring f.ring).take + 1) % (s.ring f.ring).size)) 64
          (s.setFetch (some { f with first := some bytes }))
      else if (s.ring f.ring).state = .running ∨ (s.ring f.ring).state = .paused then
        (s.setFetch none).setRing f.ring { s.ring f.ring with held := some (s.ring f.ring).post }
      else s.setFetch none
    else if (s.ring f.ring).state = .running ∨ (s.ring f.ring).state = .paused then takeRecord f all s
    else s.setFetch none := by
  cases h : f.first with
  | none =>
    obtain rfl : all = bytes := by simpa [h] using hall
    simp only [fetchArrived, hf, h, true_and]
    unfold firstSlot
    dsimp only
    by_cases h1 : slotsAllowed (all.getD 0 0) (byteAt all 1) = false
    · simp only [h1, if_true]
    · by_cases h2 : byteAt all 1 = 1
      · rw [if_neg h1, if_neg h1, if_pos h2, if_neg (not_not.2 h2), endFetch_eq]
      · rw [if_neg h1, if_neg h1, if_neg h2, if_pos h2]
        simp only [takesRecords_iff]
  | some first =>
    obtain rfl : all = first ++ bytes := by simpa [h] using hall
    simp only [fetchArrived, hf, h, reduceCtorEq, false_and, if_false, endFetch_eq]

/-- Settles O29: by the branch the end of the fetch takes. -/
theorem recordTaken : Obligations.RecordTaken := by
  intro s n x f bytes all hx hreq hlen htime hf hall
  let u := dropRead n s
  have hlate : overdue x s = false := by
    unfold overdue
    cases hi : x.issued with
    | none => simp
    | some at' => exact decide_eq_false (Nat.not_lt.2 (htime at' hi))
  let t := fetchArrived bytes u
  have hexec : exec (.hostReadComplete n bytes) s = took t := by
    simp only [exec, execHostReadComplete, hx, hlen, hlate, if_true, readArrived, hreq, Bool.false_eq_true, if_false, t, u]
  have hends := fetchArrived_eq (s := u) hf hall
  have hu : OnlyIn [.hostPort] s u := onlyIn_setHost s _
  have frame : ∀ {v}, OnlyIn [.hostPort, .ringFetcher, .scheduler, .responseUnit] u v →
      OnlyIn [.hostPort, .ringFetcher, .scheduler, .responseUnit] s (settleIdle v) := fun h =>
    onlyIn_settleIdle s ((hu.mono (by simp)).trans h)
  refine ⟨settleIdle t, hexec, ?_⟩
  simp only [settleIdle_ring, settleIdle_ctx, settleIdle_hostFields, settleIdle_frame]
  by_cases h1 : f.first = none ∧ slotsAllowed (bytes.getD 0 0) (byteAt bytes 1) = false
  · rw [if_pos h1] at hends ⊢
    let v := u.setFetch none
    have hv : OnlyIn [.hostPort, .ringFetcher, .scheduler, .responseUnit] u v := (onlyIn_setFetch u none).mono (by simp)
    have ht : t = stopRing f.ring .badSlots v := hends
    rw [ht]
    refine ⟨frame (hv.trans ((onlyIn_stopRing v _ _).mono (by simp))), fun j hj => stopRing_ring_other v _ hj,
      fun c _ => ctx_congr (s := s) (by simp [v, u, dropRead]) c, by simp [v, u, dropRead], by simp [v, u],
      by simp [v, u, dropRead], ?_⟩
    split
    · next h3 =>
      obtain ⟨g1, g2, g3, -⟩ := stopRing_stops v .badSlots h3
      exact ⟨g1, g2, g3, stopRing_posts v f.ring .badSlots h3⟩
    · next h3 =>
      rw [stopRing_other v .badSlots (fun h => h3 (.inl h)) (fun h => h3 (.inr h))]
      exact ⟨rfl, rfl⟩
  rw [if_neg h1] at hends ⊢
  by_cases h2 : f.first = none ∧ byteAt bytes 1 ≠ 1
  · rw [if_pos h2] at hends ⊢
    split
    · next hposted =>
      have ht : t = askRead .fetch (slotAddr (s.ring f.ring) (((s.ring f.ring).take + 1) % (s.ring f.ring).size)) 64
          (u.setFetch (some { f with first := some bytes })) := hends.trans (if_pos hposted)
      let v := u.setFetch (some { f with first := some bytes })
      have hv : OnlyIn [.hostPort, .ringFetcher, .scheduler, .responseUnit] u v := (onlyIn_setFetch u _).mono (by simp)
      rw [ht]
      refine ⟨frame (hv.trans ((onlyIn_askRead v _ _ _).mono (by simp))), fun j _ => ring_congr (s := v) (by simp [v]) j,
        fun c _ => ctx_congr (s := v) (by simp [v]) c, by simp [u, dropRead], by simp [u, dropRead], by simp [u, dropRead],
        by simp, ring_congr (s := v) (by simp [v]) f.ring, ?_⟩
      rw [askRead_reads]
      rfl
    · next hposted =>
      have ht : t = if (s.ring f.ring).state = .running ∨ (s.ring f.ring).state = .paused then
          (u.setFetch none).setRing f.ring { s.ring f.ring with held := some (s.ring f.ring).post }
        else u.setFetch none := hends.trans (if_neg hposted)
      rw [ht]
      split
      · exact ⟨frame (((onlyIn_setFetch u none).mono (by simp)).trans ((onlyIn_setRing _ _ _).mono (by simp))),
          fun j hj => State.setRing_other (u.setFetch none) _ _ _ hj, fun _ _ => rfl, rfl, rfl, rfl, rfl,
          State.setRing_same (u.setFetch none) _ _⟩
      · exact ⟨frame ((onlyIn_setFetch u none).mono (by simp)), fun _ _ => rfl, fun _ _ => rfl, rfl, rfl, rfl, rfl, rfl⟩
  rw [if_neg h2] at hends ⊢
  by_cases h3 : (s.ring f.ring).state = .running ∨ (s.ring f.ring).state = .paused
  · have ht : t = takeRecord f all u := hends.trans (if_pos h3)
    have htaken := takeRecord_taken (s := u) f all
    rw [if_pos h3, ht]
    refine ⟨frame (htaken.only.mono (by simp)), htaken.rings, htaken.ctxs, ?_, htaken.fetch, htaken.take, htaken.passes,
      htaken.fails⟩
    have hhost := (htaken.only.2.2 .hostPort (by simp)).1
    have hqueue := congrArg HostPort.writeQ hhost
    exact hqueue
  · have ht : t = u.setFetch none := hends.trans (if_neg h3)
    rw [if_neg h3, ht]
    exact ⟨frame ((onlyIn_setFetch u none).mono (by simp)), fun _ _ => rfl, fun _ _ => rfl, rfl, rfl, rfl, rfl, rfl⟩

end Sys2Proof.Machine

/-! PROOF. A read burst: what a TAP's packed output holds, which uncorrectable word is reported, what is handed over to
the host (R34, R101 to R103, R120 to R122). -/

namespace Sys2Proof.Machine

variable {s : State}

/-! ### A TAP's packed output -/

theorem leBytes_leNat (bs : List Byte) : leBytes bs.length (leNat bs) = bs := by
  induction bs with
  | nil => rfl
  | cons b bs ih =>
    have hb := b.isLt
    have h1 : leNat (b :: bs) % 256 = b.toNat := by simp only [leNat]; omega
    have h2 : leNat (b :: bs) / 256 = leNat bs := by simp only [leNat]; omega
    rw [List.length_cons, leBytes, h2, ih]
    congr 1
    apply BitVec.eq_of_toNat_eq
    rw [BitVec.toNat_ofNat]
    omega

/-- The four bytes of a sample of the store are the sample's bytes (R102). -/
theorem sampleBytes_samples (b0 b1 b2 b3 : Byte) :
    sampleBytes (BitVec.ofNat 32 (leNat [b0, b1, b2, b3])).toInt = [b0, b1, b2, b3] := by
  have hlt : leNat [b0, b1, b2, b3] < 2 ^ 32 := by
    have h0 := b0.isLt; have h1 := b1.isLt; have h2 := b2.isLt; have h3 := b3.isLt
    simp only [leNat]; omega
  rw [sampleBytes, BitVec.ofInt_toInt, BitVec.toNat_ofNat, Nat.mod_eq_of_lt hlt]
  exact leBytes_leNat [b0, b1, b2, b3]

theorem sampleBytes_length (x : Int) : (sampleBytes x).length = 4 := by simp [sampleBytes]

theorem samples_length (n : Nat) {data : List Byte} (h : data.length = 4 * n) : (samples data).length = n := by
  induction n generalizing data with
  | zero => rw [List.length_eq_zero_iff.1 h]; rfl
  | succ n ih =>
    obtain ⟨b0, b1, b2, b3, rest, rfl⟩ : ∃ b0 b1 b2 b3 rest, data = b0 :: b1 :: b2 :: b3 :: rest := by
      match data, h with
      | b0 :: b1 :: b2 :: b3 :: rest, _ => exact ⟨b0, b1, b2, b3, rest, rfl⟩
    simp only [samples, List.length_cons]
    rw [ih (by simp at h; omega)]

theorem samples_append (n : Nat) {d : List Byte} (h : d.length = 4 * n) (e : List Byte) :
    samples (d ++ e) = samples d ++ samples e := by
  induction n generalizing d with
  | zero => rw [List.length_eq_zero_iff.1 h]; rfl
  | succ n ih =>
    obtain ⟨b0, b1, b2, b3, rest, rfl⟩ : ∃ b0 b1 b2 b3 rest, d = b0 :: b1 :: b2 :: b3 :: rest := by
      match d, h with
      | b0 :: b1 :: b2 :: b3 :: rest, _ => exact ⟨b0, b1, b2, b3, rest, rfl⟩
    simp only [List.cons_append, samples]
    rw [ih (by simp at h; omega)]

/-- The bytes of the samples of a run of bytes are that run (R102). -/
theorem flatMap_samples (n : Nat) {d : List Byte} (h : d.length = 4 * n) : (samples d).flatMap sampleBytes = d := by
  induction n generalizing d with
  | zero => rw [List.length_eq_zero_iff.1 h]; rfl
  | succ n ih =>
    obtain ⟨b0, b1, b2, b3, rest, rfl⟩ : ∃ b0 b1 b2 b3 rest, d = b0 :: b1 :: b2 :: b3 :: rest := by
      match d, h with
      | b0 :: b1 :: b2 :: b3 :: rest, _ => exact ⟨b0, b1, b2, b3, rest, rfl⟩
    simp only [samples, List.flatMap_cons, sampleBytes_samples]
    rw [ih (by simp at h; omega)]
    rfl

/-- Byte `i` of sample `j` of a list of samples. -/
theorem flatMap_sampleBytes_getElem? (xs : List Int) (j : Nat) {i : Nat} (hi : i < 4) :
    (xs.flatMap sampleBytes)[4 * j + i]? = xs[j]?.bind fun x => (sampleBytes x)[i]? := by
  induction xs generalizing j with
  | nil => simp
  | cons x xs ih =>
    rw [List.flatMap_cons]
    cases j with
    | zero =>
      rw [List.getElem?_append_left (by rw [sampleBytes_length]; omega)]
      simp
    | succ j =>
      rw [List.getElem?_append_right (by rw [sampleBytes_length]; omega), sampleBytes_length,
        show 4 * (j + 1) + i - 4 = 4 * j + i by omega, ih, List.getElem?_cons_succ]

theorem flatMap_sampleBytes_length (xs : List Int) : (xs.flatMap sampleBytes).length = 4 * xs.length := by
  induction xs with
  | nil => rfl
  | cons x xs ih => rw [List.flatMap_cons, List.length_append, ih, sampleBytes_length, List.length_cons]; omega

/-- A frame's samples of the selected channels, in ascending channel order (R102). -/
theorem selectSamples_frame {channels : Nat} (p : Nat → Bool) {frame : List Int} (h : frame.length = channels) :
    selectSamples channels ((List.range channels).filter p) frame =
      ((List.range channels).filter p).map fun c => frame.getD c 0 := by
  have hzip : frame.zipIdx = (List.range channels).map fun c => (frame.getD c 0, c) := by
    refine List.ext_getElem (by simp [h]) fun c h1 h2 => ?_
    have hc : c < frame.length := by simpa using h1
    simp [List.getElem_zipIdx, hc]
  unfold selectSamples
  rw [hzip, List.filter_map, List.map_map]
  have hcontains : (List.range channels).filter
      ((fun x : Int × Nat => ((List.range channels).filter p).contains (x.2 % channels)) ∘ fun c => (frame.getD c 0, c)) =
      (List.range channels).filter p := by
    refine List.filter_congr fun c hc => ?_
    have hlt := List.mem_range.1 hc
    simp only [Function.comp_apply, Nat.mod_eq_of_lt hlt]
    rw [Bool.eq_iff_iff, List.contains_iff_mem, List.mem_filter]
    simp [hlt]
  rw [hcontains]
  rfl

/-- The frames of a run are packed one after the other (R102). -/
theorem selectSamples_append {channels : Nat} (selected : List Nat) {frame : List Int} (h : frame.length = channels)
    (rest : List Int) : selectSamples channels selected (frame ++ rest) =
      selectSamples channels selected frame ++ selectSamples channels selected rest := by
  have hshift : rest.zipIdx channels = rest.zipIdx.map (Prod.map id (· + channels)) := by
    rw [List.map_snd_add_zipIdx_eq_zipIdx, Nat.add_zero]
  unfold selectSamples
  rw [List.zipIdx_append, List.filter_append, List.map_append, Nat.zero_add, h, hshift, List.filter_map, List.map_map]
  refine congrArg (_ ++ ·) (congrArg₂ List.map rfl (List.filter_congr fun x _ => ?_))
  simp only [Function.comp_apply, Prod.map_snd, Nat.add_mod_right]

/-- What one frame of a TAP's run adds to its output (R102). -/
theorem tapOutput_append (l : Line) (mask : BitVec 16) {d : List Byte} (h : d.length = 4 * l.channels) (e : List Byte) :
    tapOutput l mask (d ++ e) = tapOutput l mask d ++ tapOutput l mask e := by
  rw [tapOutput, samples_append l.channels h, selectSamples_append _ (samples_length _ h), List.flatMap_append]
  rfl

theorem tapOutput_frame (l : Line) (mask : BitVec 16) {d : List Byte} (h : d.length = 4 * l.channels) :
    tapOutput l mask d = ((selectedChannels l mask).map fun c => (samples d).getD c 0).flatMap sampleBytes := by
  rw [tapOutput, selectedChannels, selectSamples_frame _ (samples_length _ h)]

theorem tapOutput_frame_length (l : Line) (mask : BitVec 16) {d : List Byte} (h : d.length = 4 * l.channels) :
    (tapOutput l mask d).length = 4 * (selectedChannels l mask).length := by
  rw [tapOutput_frame l mask h, flatMap_sampleBytes_length, List.length_map]

theorem mem_selectedChannels (l : Line) (mask : BitVec 16) (c : Nat) :
    c ∈ selectedChannels l mask ↔ c < l.channels ∧ (mask = 0 ∨ mask.getLsbD c = true) := by
  rw [selectedChannels, List.mem_filter, List.mem_range, Bool.or_eq_true, beq_iff_eq]

theorem tapOutput_frame_byte (l : Line) (mask : BitVec 16) {d : List Byte} (h : d.length = 4 * l.channels) {j c i : Nat}
    (hj : (selectedChannels l mask)[j]? = some c) (hi : i < 4) : (tapOutput l mask d)[4 * j + i]? = d[4 * c + i]? := by
  have hc : c < (samples d).length := by
    rw [samples_length _ h]
    exact ((mem_selectedChannels l mask c).1 (List.mem_of_getElem? hj)).1
  rw [tapOutput_frame l mask h, flatMap_sampleBytes_getElem? _ _ hi, List.getElem?_map, hj]
  conv_rhs => rw [← flatMap_samples l.channels h, flatMap_sampleBytes_getElem? _ _ hi, List.getElem?_eq_getElem hc]
  rw [Option.map_some, List.getD_eq_getElem _ _ hc]

/-- A TAP's packed output, frame by frame and channel by channel (R102). -/
theorem tapOutput_spec (l : Line) (mask : BitVec 16) (N : Nat) {data : List Byte} (h : data.length = N * (4 * l.channels)) :
    (tapOutput l mask data).length = 4 * (selectedChannels l mask).length * N ∧
      ∀ k j c i, k < N → (selectedChannels l mask)[j]? = some c → i < 4 →
        (tapOutput l mask data)[4 * ((selectedChannels l mask).length * k + j) + i]? =
          data[4 * l.channels * k + 4 * c + i]? := by
  induction N generalizing data with
  | zero =>
    have hnil : data = [] := List.length_eq_zero_iff.1 (by simpa using h)
    exact ⟨by rw [hnil]; rfl, fun k _ _ _ hk => absurd hk (Nat.not_lt_zero k)⟩
  | succ N ih =>
    rw [Nat.add_mul, Nat.one_mul] at h
    have hd : (data.take (4 * l.channels)).length = 4 * l.channels := by rw [List.length_take]; omega
    have he : (data.drop (4 * l.channels)).length = N * (4 * l.channels) := by rw [List.length_drop]; omega
    have hsplit : tapOutput l mask data =
        tapOutput l mask (data.take (4 * l.channels)) ++ tapOutput l mask (data.drop (4 * l.channels)) := by
      rw [← tapOutput_append l mask hd, List.take_append_drop]
    obtain ⟨hlen, hbyte⟩ := ih he
    have hfirst := tapOutput_frame_length l mask hd
    rw [hsplit]
    refine ⟨by rw [List.length_append, hfirst, hlen, Nat.mul_add, Nat.mul_one, Nat.add_comm], fun k j c i hk hj hi => ?_⟩
    have hjlt : j < (selectedChannels l mask).length := (List.getElem?_eq_some_iff.1 hj).1
    have hclt : c < l.channels := ((mem_selectedChannels l mask c).1 (List.mem_of_getElem? hj)).1
    cases k with
    | zero =>
      rw [Nat.mul_zero, Nat.mul_zero, Nat.zero_add, Nat.zero_add, List.getElem?_append_left (by omega),
        tapOutput_frame_byte l mask hd hj hi, List.getElem?_take_of_lt (by omega)]
    | succ k =>
      have hindex := hbyte k j c i (by omega) hj hi
      rw [List.getElem?_drop] at hindex
      rw [List.getElem?_append_right (by rw [hfirst, Nat.mul_succ]; omega), hfirst,
        show 4 * ((selectedChannels l mask).length * (k + 1) + j) + i - 4 * (selectedChannels l mask).length =
          4 * ((selectedChannels l mask).length * k + j) + i by rw [Nat.mul_succ]; omega, hindex]
      congr 1
      rw [Nat.mul_succ]
      omega

/-! ### Which uncorrectable word a mover reports -/

/-- One reported position and tap is not above another (R120). -/
def NotAbove (y z : Nat × Nat) : Prop := y.1 < z.1 ∨ (y.1 = z.1 ∧ y.2 ≤ z.2)

theorem NotAbove.refl (y : Nat × Nat) : NotAbove y y := .inr ⟨rfl, le_rfl⟩

theorem NotAbove.trans {x y z : Nat × Nat} (h : NotAbove x y) (h' : NotAbove y z) : NotAbove x z := by
  unfold NotAbove at *
  omega

/-- The lower of two reports is one of them, and not above either (R120). -/
theorem lowerBad_spec (x y : Option (Nat × Nat)) : (∀ v, lowerBad x y = some v → x = some v ∨ y = some v) ∧
    ∀ z, x = some z ∨ y = some z → ∃ v, lowerBad x y = some v ∧ NotAbove v z := by
  cases x with
  | none => exact ⟨fun v h => .inr h, fun z h => ⟨z, by simpa [lowerBad] using h, .refl z⟩⟩
  | some x =>
    cases y with
    | none => exact ⟨fun v h => .inl h, fun z h => ⟨z, by simpa [lowerBad] using h, .refl z⟩⟩
    | some y =>
      unfold lowerBad
      by_cases h : x.1 < y.1 ∨ (x.1 = y.1 ∧ x.2 ≤ y.2)
      · simp only [h, if_true]
        refine ⟨fun v hv => .inl hv, fun z hz => ⟨x, rfl, ?_⟩⟩
        rcases hz with hz | hz <;> cases hz
        · exact .refl _
        · exact h
      · simp only [h, if_false]
        refine ⟨fun v hv => .inr hv, fun z hz => ⟨y, rfl, ?_⟩⟩
        rcases hz with hz | hz <;> cases hz
        · unfold NotAbove; omega
        · exact .refl _

/-- The lowest of a report and those of a list of words (R120). -/
theorem foldl_lowerBad_spec (g : Nat → Option (Nat × Nat)) (ws : List Nat) (x : Option (Nat × Nat)) :
    (∀ v, ws.foldl (fun x w => lowerBad x (g w)) x = some v → x = some v ∨ ∃ w ∈ ws, g w = some v) ∧
      ∀ z, (x = some z ∨ ∃ w ∈ ws, g w = some z) →
        ∃ v, ws.foldl (fun x w => lowerBad x (g w)) x = some v ∧ NotAbove v z := by
  induction ws generalizing x with
  | nil => exact ⟨fun v h => .inl h, fun z h => ⟨z, by simpa using h, .refl z⟩⟩
  | cons w ws ih =>
    obtain ⟨hone, htwo⟩ := lowerBad_spec x (g w)
    obtain ⟨hfrom, hlow⟩ := ih (lowerBad x (g w))
    refine ⟨fun v hv => ?_, fun z hz => ?_⟩
    · rcases hfrom v hv with h | ⟨u, hu, h⟩
      · rcases hone v h with h | h
        · exact .inl h
        · exact .inr ⟨w, by simp, h⟩
      · exact .inr ⟨u, List.mem_cons_of_mem _ hu, h⟩
    · have hstep : ∀ z', x = some z' ∨ g w = some z' →
          ∃ v, (w :: ws).foldl (fun x w => lowerBad x (g w)) x = some v ∧ NotAbove v z' := fun z' h => by
        obtain ⟨v, hv, hle⟩ := htwo z' h
        obtain ⟨u, hu, hle'⟩ := hlow v (.inl hv)
        exact ⟨u, hu, hle'.trans hle⟩
      rcases hz with h | ⟨u, hu, h⟩
      · exact hstep z (.inl h)
      · rcases List.mem_cons.1 hu with rfl | hu
        · exact hstep z (.inr h)
        · exact hlow z (.inr ⟨u, hu, h⟩)

/-- When a frame has a sample in a word of the store (R30, R34). -/
theorem frameInWord_iff (l : Line) (q w : Nat) : frameInWord l q w = true ↔ sampleIn l q w := by
  unfold frameInWord sampleIn
  rw [List.any_eq_true]
  refine exists_congr fun c => (and_congr_left' List.mem_range).trans (and_congr_right fun hc => ?_)
  have hlt : 4 * c < frameSize l := by unfold frameSize; omega
  rw [beq_iff_eq, logicalByte, Nat.div_eq_of_lt hlt, Nat.mod_eq_of_lt hlt, Nat.add_zero]
  rfl

/-- A position reported lies in the run and has a sample in the word; none lower does (R34). -/
theorem badReport_spec (r : Run) (tap w : Nat) :
    (∀ v, badReport s r tap w = some v → v.2 = tap ∧ r.start ≤ v.1 ∧ v.1 < r.start + r.frames ∧
      sampleIn (s.line r.line) v.1 w) ∧
    ∀ q, r.start ≤ q → q < r.start + r.frames → sampleIn (s.line r.line) q w →
      ∃ v, badReport s r tap w = some v ∧ v.1 ≤ q ∧ v.2 = tap := by
  unfold badReport lowestInWord
  refine ⟨fun v hv => ?_, fun q h1 h2 hq => ?_⟩
  · obtain ⟨q, hq, rfl⟩ := Option.map_eq_some_iff.1 hv
    have hmem := List.mem_range'_1.1 (List.mem_of_find?_eq_some hq)
    exact ⟨rfl, hmem.1, hmem.2, (frameInWord_iff _ _ _).1 (by simpa using List.find?_some hq)⟩
  · cases hf : (List.range' r.start r.frames).find? fun q => frameInWord (s.line r.line) q w with
    | none => exact absurd ((frameInWord_iff _ _ _).2 hq) (List.find?_eq_none.1 hf q (List.mem_range'_1.2 ⟨h1, h2⟩))
    | some p =>
      refine ⟨(p, tap), rfl, ?_, rfl⟩
      obtain ⟨hp, as, bs, hsplit, hbefore⟩ := List.find?_eq_some_iff_append.1 hf
      have hq' : q ∈ as ++ p :: bs := hsplit ▸ List.mem_range'_1.2 ⟨h1, h2⟩
      have hsorted : (as ++ p :: bs).Pairwise (· < ·) := hsplit ▸ List.pairwise_lt_range'
      rcases List.mem_append.1 hq' with h | h
      · have := hbefore q h
        rw [(frameInWord_iff _ _ _).2 hq] at this
        cases this
      · rcases List.mem_cons.1 h with rfl | h
        · exact le_rfl
        · exact ((List.pairwise_cons.1 (List.pairwise_append.1 hsorted).2.1).1 q h).le

/-! ### What a mover hands over to the host -/

/-- Host writes handed over with nothing waiting join the queue while they fit (R161). -/
theorem handOver_all (m : MoverId) (f : Nat → List HostWrite) (xs : List Nat) (hf : ∀ x ∈ xs, (f x).length ≤ 2)
    (hw : s.host.waiters = []) (hroom : s.host.writeQ.length + 2 * xs.length ≤ 64) :
    (xs.foldl (fun t x => handOver (.data m (f x)) t) s).host.writeQ = s.host.writeQ ++ xs.flatMap f := by
  induction xs generalizing s with
  | nil => simp
  | cons x xs ih =>
    have hx := hf x (by simp)
    rw [List.length_cons] at hroom
    obtain ⟨hqueue, hnone⟩ := handOver_joins s (x := .data m (f x)) rfl hw (by omega)
    rw [List.foldl_cons, ih (fun y hy => hf y (List.mem_cons_of_mem _ hy)) hnone
      (by rw [hqueue, List.length_append]; omega), hqueue, List.flatMap_cons, List.append_assoc]

theorem handOver_all_frame (m : MoverId) (f : Nat → List HostWrite) (xs : List Nat) :
    OnlyIn [.hostPort] s (xs.foldl (fun t x => handOver (.data m (f x)) t) s) := by
  induction xs generalizing s with
  | nil => exact onlyIn_refl s _
  | cons x xs ih => exact (onlyIn_handOver s _).trans ih

/-- The host write of transfer `x` of a mover's output (R103, R122, R179). -/
def outputWrites (b : Body) (out : List Byte) (x : Nat) : List HostWrite :=
  splitWrite .data (bufferOf b + BitVec.ofNat 64 (512 * x)) ((out.drop (512 * x)).take 512)

theorem handTransfers_eq {m : MoverId} {mv : Mover} (b : Body) (hm : s.mover m = some mv) : handTransfers m b s =
    ((readyTransfers (outputBytes s b) mv).foldl (fun t x => handOver (.data m (outputWrites b mv.out x)) t) s).setMover m
      (some { mv with
        hostDone := min (outputBytes s b) (mv.hostDone + 512 * (readyTransfers (outputBytes s b) mv).length) }) := by
  simp only [handTransfers, hm]
  rfl

theorem onlyIn_handTransfers (m : MoverId) (b : Body) : OnlyIn [.hostPort, .movers] s (handTransfers m b s) := by
  cases hm : s.mover m with
  | none => simp only [handTransfers, hm]; exact onlyIn_refl s _
  | some mv =>
    rw [handTransfers_eq b hm]
    exact ((handOver_all_frame m _ _).mono (by simp)).trans ((onlyIn_setMover _ m _).mono (by simp))

/-- Which transfers are handed over, from the first not yet to the last whose bytes are at hand (R103). -/
theorem readyTransfers_eq {total first last : Nat} {mv : Mover} (hfirst : first = (mv.hostDone + 511) / 512)
    (hlast : last = if mv.out.length = total then (total + 511) / 512 else mv.out.length / 512) :
    readyTransfers total mv = List.range' first (last - first) := by
  rw [hfirst, hlast]
  rfl

/-! ### A burst delivered -/

/-- A mover that has received a read burst, its output still to be computed (R34, R101, R120). -/
def received (s : State) (mv : Mover) (run : Nat) (r : Run) (bytes : List Byte) (bad : List Nat) : Mover :=
  { mv with
    runs := mv.runs.set run { r with data := r.data ++ bytes }
    firstBad := bad.foldl (fun x w => lowerBad x (badReport s r (run + 1) w)) mv.firstBad }

/-- Computing the output changes the output and the clip count only (R102, R121). -/
theorem computeOutput_eq (b : Body) (mv : Mover) : computeOutput s b mv =
    { mv with out := (computeOutput s b mv).out, clips := (computeOutput s b mv).clips } := by
  cases b <;> rfl

/-- The mover that goes on after a read burst (R101, R120). -/
def goesOn (s : State) (mv : Mover) (b : Body) (run : Nat) (r : Run) (bytes : List Byte) (bad : List Nat) : Mover :=
  computeOutput s b (received s mv run r bytes bad)

theorem deliver_eq {m : MoverId} {mv : Mover} {run : Nat} {r : Run} {o : Operation} {b : Body} (hm : s.mover m = some mv)
    (hr : mv.runs[run]? = some r) (ho : s.ctx mv.ctx = some o) (hb : o.body = some b) (bytes : List Byte) (bad : List Nat) :
    deliver m run bytes bad s = pump m (if (destOf b).isSome then s.setMover m (some (goesOn s mv b run r bytes bad))
      else handTransfers m b (s.setMover m (some (goesOn s mv b run r bytes bad)))) := by
  simp only [deliver, hm, hr, ho, Option.bind_some, hb]
  rfl

/-- A burst delivered touches the Host Port and its mover, and of the store the waiting accesses only (R32, R101). -/
theorem deliver_store (m : MoverId) (run : Nat) (bytes : List Byte) (bad : List Nat) :
    OnlyIn [.hostPort, .movers, .storeController] s (deliver m run bytes bad s) ∧
      (deliver m run bytes bad s).store.busy = s.store.busy ∧ (deliver m run bytes bad s).store.cells = s.store.cells ∧
      (deliver m run bytes bad s).store.marks = s.store.marks ∧
      (deliver m run bytes bad s).store.corrected = s.store.corrected := by
  unfold deliver
  dsimp only
  split
  · exact ⟨onlyIn_refl s _, rfl, rfl, rfl, rfl⟩
  · split
    · split
      · exact ⟨((onlyIn_setMover s m _).mono (by simp)).trans (onlyIn_pump _ m), by simp⟩
      · exact ⟨(((onlyIn_setMover s m _).mono (by simp)).trans ((onlyIn_handTransfers m _).mono (by simp))).trans
          (onlyIn_pump _ m), by simp⟩
    · exact ⟨onlyIn_refl s _, rfl, rfl, rfl, rfl⟩

/-- A mover that has received a read burst and asked for more, its output handed over where it goes to the host (R101 to
R103, R120 to R122). -/
theorem deliver_mover {m : MoverId} {mv : Mover} {run : Nat} {r : Run} {o : Operation} {b : Body} (hm : s.mover m = some mv)
    (hr : mv.runs[run]? = some r) (ho : s.ctx mv.ctx = some o) (hb : o.body = some b) (bytes : List Byte) (bad : List Nat)
    {t : State} (ht : t = deliver m run bytes bad s) {mv1 : Mover} (h1 : mv1 = goesOn s mv b run r bytes bad) :
    ∃ d, t.mover m = some { mv1 with hostDone := d } ∧
      AsksStore s.store.waiting m { mv1 with hostDone := d } o b t ∧ (destOf b ≠ none → t.host.writeQ = s.host.writeQ) ∧
      ∀ total first last : Nat, destOf b = none → total = outputBytes s b → first = (mv1.hostDone + 511) / 512 →
        last = (if mv1.out.length = total then (total + 511) / 512 else mv1.out.length / 512) →
        d = min total (mv1.hostDone + 512 * (last - first)) ∧
        (s.host.waiters = [] → s.host.writeQ.length + 2 * (last - first) ≤ 64 →
          t.host.writeQ = s.host.writeQ ++ (List.range' first (last - first)).flatMap (outputWrites b mv1.out)) := by
  let u := s.setMover m (some mv1)
  have hum : u.mover m = some mv1 := State.setMover_same s m _
  have hctx : mv1.ctx = mv.ctx := by rw [h1, goesOn, computeOutput_eq]; rfl
  have huo : u.ctx mv1.ctx = some o := by rw [hctx]; exact ho
  rw [deliver_eq hm hr ho hb, ← h1] at ht
  cases hd : destOf b with
  | some n =>
    rw [hd, Option.isSome_some, if_pos rfl] at ht
    obtain ⟨d, hd⟩ := pump_mover hum
    exact ⟨d, by rw [ht]; exact hd, by rw [ht]; exact pump_asks hum hd huo hb,
      fun _ => by rw [ht, (pump_hostFields u m).1]; rfl, fun _ _ _ h => by cases h⟩
  | none =>
    rw [hd, Option.isSome_none, if_neg (by simp)] at ht
    let v := handTransfers m b u
    let mv2 : Mover := { mv1 with
      hostDone := min (outputBytes u b) (mv1.hostDone + 512 * (readyTransfers (outputBytes u b) mv1).length) }
    have hv : v = ((readyTransfers (outputBytes u b) mv1).foldl
        (fun t x => handOver (.data m (outputWrites b mv1.out x)) t) u).setMover m (some mv2) := handTransfers_eq b hum
    have hvm : v.mover m = some mv2 := by rw [hv]; exact State.setMover_same _ _ _
    have hvo : v.ctx mv2.ctx = some o := (ctx_congr (s := u) (by simp [v]) mv1.ctx).trans huo
    have hpump : pump m v = askStore m v := pump_rests fun q p k a M hq hp hk _ _ => by
      cases hvm.symm.trans hq
      cases hvo.symm.trans hp
      cases hb.symm.trans hk
      cases hd
    have htm : t.mover m = some mv2 := by rw [ht, hpump, mover_congr (askStore_frame v m).2.2.2.2.2.2.2.2.1, hvm]
    have hasks := pump_asks hvm ((congrArg (State.mover · m) ht).symm.trans htm) hvo hb
    rw [← ht, show v.store = s.store by simp [v, u]] at hasks
    refine ⟨_, htm, hasks, fun h => absurd rfl h, fun total first last _ htotal hfirst hlast => ?_⟩
    have hready : readyTransfers (outputBytes u b) mv1 = List.range' first (last - first) := by
      rw [show outputBytes u b = total from htotal.symm]
      exact readyTransfers_eq hfirst hlast
    refine ⟨by rw [hready, List.length_range', show outputBytes u b = total from htotal.symm], fun hw hroom => ?_⟩
    have hqueue : t.host.writeQ = v.host.writeQ := by rw [ht, (pump_hostFields v m).1]
    rw [hqueue, hv, hready]
    exact handOver_all m (outputWrites b mv1.out) _ (fun x _ => splitWrite_length _ _ _) hw
      (by rw [List.length_range']; exact hroom)

/-! ### The read burst -/

/-- The bytes of a frame size are those of its samples (R1, R121). -/
theorem outputBytes_mix (dest : Option LineId) (addr : HostAddr) (N wait : Nat) (x : MixTap) (taps : List MixTap) :
    outputBytes s (.mix dest addr N wait (x :: taps)) = 4 * (s.line x.line).channels * N := by
  simp only [outputBytes, frameSize]
  exact Nat.mul_comm _ _

/-- The store after a read burst, before its mover goes on (R33). -/
def burstRead (a : Access) (marks : List (Nat × Flip)) (s : State) : State :=
  s.setStore
    { s.store with
      busy := none
      marks := marks
      corrected := countUp s.store.corrected (singleWords marks (wordsOf a.addr a.len)).length }

theorem readBurstDone_eq (a : Access) (marks : List (Nat × Flip)) (s : State) :
    readBurstDone a (s.setStore { s.store with marks := marks }) =
      match a.mover with
      | none => burstRead a marks s
      | some m => deliver m a.run (deliveredBytes s.store.cells marks a.addr a.len)
          (badWords marks (wordsOf a.addr a.len)) (burstRead a marks s) := rfl

theorem mem_badWords (marks : List (Nat × Flip)) (ws : List Nat) (w : Nat) :
    w ∈ badWords marks ws ↔ w ∈ ws ∧ markOf marks w = some .double := by
  rw [badWords, List.mem_filter, decide_eq_true_iff]

/-- What the report of a mover's first bad position is after a burst (R34, R101, R120). -/
theorem received_firstBad (mv : Mover) (run : Nat) (r : Run) (bytes : List Byte) (marks : List (Nat × Flip)) (ws : List Nat)
    {x : Option (Nat × Nat)} (hx : x = (received s mv run r bytes (badWords marks ws)).firstBad) :
    (∀ y, x = some y → mv.firstBad = some y ∨ (y.2 = run + 1 ∧ r.start ≤ y.1 ∧ y.1 < r.start + r.frames ∧
      ∃ w ∈ ws, markOf marks w = some .double ∧ sampleIn (s.line r.line) y.1 w)) ∧
    (∀ z, mv.firstBad = some z → ∃ y, x = some y ∧ (y.1 < z.1 ∨ (y.1 = z.1 ∧ y.2 ≤ z.2))) ∧
    ∀ w ∈ ws, markOf marks w = some .double → ∀ q, r.start ≤ q → q < r.start + r.frames →
      sampleIn (s.line r.line) q w → ∃ y, x = some y ∧ (y.1 < q ∨ (y.1 = q ∧ y.2 ≤ run + 1)) := by
  obtain ⟨hfrom, hlow⟩ := foldl_lowerBad_spec (badReport s r (run + 1)) (badWords marks ws) mv.firstBad
  subst hx
  refine ⟨fun y hy => ?_, fun z hz => hlow z (.inl hz), fun w hw hm q h1 h2 hq => ?_⟩
  · rcases hfrom y hy with h | ⟨w, hw, h⟩
    · exact .inl h
    · obtain ⟨g1, g2, g3, g4⟩ := (badReport_spec r (run + 1) w).1 y h
      obtain ⟨hmem, hmark⟩ := (mem_badWords _ _ _).1 hw
      exact .inr ⟨g1, g2, g3, w, hmem, hmark, g4⟩
  · obtain ⟨v, hv, hle, htap⟩ := (badReport_spec r (run + 1) w).2 q h1 h2 hq
    obtain ⟨y, hy, hyv⟩ := hlow v (.inr ⟨w, (mem_badWords _ _ _).2 ⟨hw, hm⟩, hv⟩)
    refine ⟨y, hy, ?_⟩
    unfold NotAbove at hyv
    omega

/-- Settles O23: the store's own part, then what the mover gains. -/
theorem readBurst : Obligations.ReadBurst := by
  refine ⟨?_, splitWrite_eq, fun s n addr N wait absolute fld mask => ⟨rfl, rfl⟩,
    fun s dest addr N wait x taps => ⟨outputBytes_mix dest addr N wait x taps, rfl⟩, ?_⟩
  · intro s a flips hbusy hwrite
    let marks := flips.foldl addFlip s.store.marks
    let v := burstRead a marks s
    let bytes := deliveredBytes s.store.cells marks a.addr a.len
    let bad := badWords marks (wordsOf a.addr a.len)
    let t := readBurstDone a (s.setStore { s.store with marks := marks })
    have hexec : exec (.storeAccessComplete flips) s = took t := by
      simp only [exec, execStoreAccessComplete, hbusy, hwrite, t, marks]
    have ht : OnlyIn [.hostPort, .movers, .storeController] v t ∧ t.store.busy = none ∧ t.store.cells = s.store.cells ∧
        t.store.marks = marks ∧ t.store.corrected = v.store.corrected := by
      simp only [t, readBurstDone_eq]
      cases a.mover with
      | none => exact ⟨onlyIn_refl v _, rfl, rfl, rfl, rfl⟩
      | some m => exact deliver_store m a.run bytes bad
    obtain ⟨honly, htbusy, hcells, htmarks, hcount⟩ := ht
    have hv : OnlyIn [.hostPort, .movers, .storeController] s v := (onlyIn_setStore s _).mono (by simp)
    refine ⟨settleIdle t, hexec, onlyIn_settleIdle s (hv.trans honly), ?_⟩
    rw [settleIdle_store, htbusy, hcells, htmarks, hcount]
    refine ⟨rfl, rfl, rfl, rfl, fun m mv r o b ham hm hr ho hb => ?_⟩
    let mv1 := goesOn v mv b a.run r bytes bad
    have hdeliver : t = deliver m a.run bytes bad v := by simp only [t, readBurstDone_eq, ham, bytes, bad, v]
    obtain ⟨d, hmover, hasks, hqueue, hhost⟩ := deliver_mover (s := v) hm hr ho hb bytes bad hdeliver (mv1 := mv1) rfl
    have hmv1 : mv1 = { received v mv a.run r bytes bad with out := mv1.out, clips := mv1.clips } :=
      computeOutput_eq b _
    obtain ⟨hbad1, hbad2, hbad3⟩ := received_firstBad (s := v) mv a.run r bytes marks (wordsOf a.addr a.len)
      (x := mv1.firstBad) (by rw [hmv1])
    refine ⟨_, { r with data := r.data ++ bytes }, (settleIdle_mover t m).trans hmover, by rw [hmv1]; rfl,
      by rw [hmv1]; rfl, rfl, rfl, rfl, rfl, hbad1, hbad2, hbad3, ?_, ?_, hasks.settle, ?_, ?_⟩
    · rintro n addr N wait absolute fld mask rfl
      rfl
    · rintro dest addr N wait taps mixed rfl rfl
      exact ⟨rfl, rfl⟩
    · intro hdest
      rw [(settleIdle_hostFields t).2.2.2.2.2.2.2.2.2.2.2.2.2.1]
      exact hqueue hdest
    · intro total first last hdest htotal hfirst hlast
      rw [(settleIdle_hostFields t).2.2.2.2.2.2.2.2.2.2.2.2.2.1]
      have hdone : mv1.hostDone = mv.hostDone := by rw [hmv1]; rfl
      have hgone := hhost total first last hdest htotal (by rw [hdone]; exact hfirst) hlast
      rw [hdone] at hgone
      exact hgone
  · intro l mask data N sel _ hsel hlen
    obtain ⟨h1, h2⟩ := tapOutput_spec l mask N hlen
    rw [← hsel] at h1 h2
    exact ⟨h1, List.pairwise_lt_range.filter _, mem_selectedChannels l mask, h2⟩

end Sys2Proof.Machine

/-! PROOF. A MIX's visits to its source lines: the end of its moving and its re-check at a grant, with the pins that go,
the queue it leaves and the lines that drain (R6, R11, R13, R15, R119, R123, R124). -/

namespace Sys2Proof.Machine

variable {s : State}

/-! ### The source lines and the taps on them -/

/-- The distinct lines of a list in the order of their first appearance (R113). -/
theorem firstAppearances_spec (ns : List LineId) : (firstAppearances ns).Nodup ∧ (∀ n, n ∈ firstAppearances ns ↔ n ∈ ns) ∧
    (firstAppearances ns).Pairwise fun i j => ns.idxOf i < ns.idxOf j := by
  induction ns with
  | nil => exact ⟨List.nodup_nil, fun n => Iff.rfl, List.Pairwise.nil⟩
  | cons l ls ih =>
    obtain ⟨h1, h2, h3⟩ := ih
    have hne : ∀ {i}, i ∈ (firstAppearances ls).filter (· ≠ l) → i ≠ l := fun h => by
      simpa using (List.mem_filter.1 h).2
    refine ⟨List.nodup_cons.2 ⟨fun h => hne h rfl, h1.filter _⟩, fun n => ?_, List.pairwise_cons.2 ⟨fun i hi => ?_, ?_⟩⟩
    · simp only [firstAppearances, List.mem_cons, List.mem_filter, h2, decide_eq_true_eq]
      by_cases h : n = l <;> simp [h]
    · rw [List.idxOf_cons_self, List.idxOf_cons_ne _ (hne hi).symm]
      exact Nat.succ_pos _
    · refine (h3.filter _).imp_of_mem fun {i j} hi hj h => ?_
      rw [List.idxOf_cons_ne _ (hne hi).symm, List.idxOf_cons_ne _ (hne hj).symm]
      exact Nat.succ_lt_succ h

/-- Only one tap is the lowest below a bound (R119, R123). -/
theorem LowestTapBelow.unique {n : LineId} {taps : List MixTap} {starts : List Nat} {bound : Nat} {x y : Option Nat}
    (hx : LowestTapBelow n taps starts bound x) (hy : LowestTapBelow n taps starts bound y) : x = y := by
  cases x with
  | none =>
    cases y with
    | none => rfl
    | some j =>
      obtain ⟨⟨x, p, h1, h2, h3, h4⟩, -⟩ := hy
      exact absurd h4 (Nat.not_lt.2 (hx j x p h1 h2 h3))
  | some i =>
    obtain ⟨⟨x, p, h1, h2, h3, h4⟩, hbelow⟩ := hx
    cases y with
    | none => exact absurd h4 (Nat.not_lt.2 (hy i x p h1 h2 h3))
    | some j =>
      obtain ⟨⟨z, q, g1, g2, g3, g4⟩, hbelow'⟩ := hy
      have hij : ¬i < j := fun h => Nat.not_lt.2 (hbelow' i x p h h1 h2 h3) h4
      have hji : ¬j < i := fun h => Nat.not_lt.2 (hbelow j z q h g1 g2 g3) g4
      rw [show i = j by omega]

/-- The tap found overtaken on a line is the lowest below its overtake bound (R104, R123). -/
theorem overtakenOn_eq {n : LineId} {o : Operation} {taps : List MixTap} {found : Option Nat}
    (h : LowestTapBelow n taps o.starts (max (s.line n).f ((s.line n).w + movingFrames n s - (s.line n).cap)) found) :
    overtakenOn n o taps s = found :=
  (tapsOn_lowest n taps o.starts (overtakeBound (s.line n) (movingFrames n s))).unique h

/-- The mover bound to a context, when there is one only (R156). -/
theorem moverOf_eq {m : MoverId} {mv : Mover} (hm : s.mover m = some mv)
    (huniq : ∀ m' x, s.mover m' = some x → x.ctx = mv.ctx → m' = m) : moverOf mv.ctx s = some m := by
  cases h : moverOf mv.ctx s with
  | none =>
    have := List.find?_eq_none.1 h m (List.mem_finRange m)
    simp [hm] at this
  | some j =>
    have hj := List.find?_some h
    split at hj
    · cases hj
    · next x hx => rw [huniq j x hx (by simpa using hj)]

/-! ### The end of a MIX's moving -/

/-- The two lowest taps found so far, and the lower of them (R123). -/
theorem lowerTap_eq (x y : Option Nat) : lowerTap x y = match x, y with
    | none, y => y
    | some x, none => some x
    | some x, some y => some (min x y) := by
  cases x <;> cases y <;> rfl

theorem setStage_ctx (c d : CtxId) (x : MixStage) :
    (setStage c x s).ctx d = if d = c then (s.ctx c).map fun o => { o with stage := some x } else s.ctx d :=
  modCtx_ctx s c d _

theorem onlyIn_setStage (c : CtxId) (x : MixStage) : OnlyIn [.scheduler] s (setStage c x s) := onlyIn_modCtx s c _

/-- When a MIX has moved (R123). -/
theorem mixMoved_of {m : MoverId} {mv : Mover} {dest : Option LineId} {addr : HostAddr} {N wait : Nat} {taps : List MixTap}
    (htaps : taps ≠ []) (hruns : RunsWhole s mv) (hout : NothingOut m s)
    (hhost : dest = none → ∀ x xs, taps = x :: xs → mv.hostDone = 4 * (s.line x.line).channels * N)
    (hline : ∀ j, dest = some j → mv.written = 4 * (s.line j).channels * N) :
    mixMoved m mv (.mix dest addr N wait taps) s = true := by
  obtain ⟨x, xs, rfl⟩ := List.exists_cons_of_ne_nil htaps
  simp only [mixMoved, (runsRead_iff s mv).2 hruns, (settledMover_iff m s).2 hout, Bool.true_and]
  cases dest with
  | none => exact decide_eq_true ((hhost rfl x xs rfl).trans (outputBytes_mix none addr N wait x xs).symm)
  | some j => exact decide_eq_true ((hline j rfl).trans (Nat.mul_comm _ _))

/-- Settles O44: the pin goes first, then the stage or the end by the visit that comes next. -/
theorem mixEnd : Obligations.MixEnd := by
  intro s cmd m mv o dest addr N wait taps k n found ovt r l hm huniq ho hb hp hcmd hk hfound hovt hr hl
  let mv' : Mover := { mv with overtaken := lowerTap mv.overtaken (overtakenOn n o taps s) }
  have hover : mv' = { mv with overtaken := ovt } := by
    simp only [mv', overtakenOn_eq hfound, lowerTap_eq, hovt] <;> rfl
  have hresult : mixResult mv' o = r := by
    rw [hover, hr]
    unfold mixResult
    cases mv.firstBad <;> cases ovt <;> rfl
  let u := removePin n mv.ctx (s.setMover m (some mv'))
  let t := endVisit m mv mv.ctx o dest taps k s
  have ht : t = if k + 1 < (firstAppearances (taps.map MixTap.line)).length then setStage mv.ctx (.ending (k + 1)) u
      else mixDecided m mv.ctx dest r u := by
    simp only [t, endVisit, hk, ← hresult]
    rfl
  have htaps : taps ≠ [] := by
    rintro rfl
    simp [firstAppearances] at hk
  have hexec : exec cmd s = took t := by
    rcases hcmd with ⟨rfl, hstage⟩ | ⟨rfl, hstage, rfl, hruns, hout, hhost, hline⟩
    · simp only [exec, execMixLineVisit, ho, hb, hstage, moverOf_eq hm huniq, hm, t]
    · simp only [exec, execMixEndOfMoving, hm, ho, hb, hp, hstage, mixMoved_of htaps hruns hout hhost hline, and_self,
        if_true, t]
  have hnot : mv.ctx ≠ 0 ∨ holdsCloseLine n (s.setMover m (some mv')) = false :=
    not_closeLine_of (s.setMover m (some mv')) ho (by simp [hb])
  have hclosed : holdsCloseLine n s = true → (0 : CtxId) ≠ mv.ctx := fun h => by
    have := hnot.resolve_right (by rw [holdsCloseLine_congr s (State.setMover_ctx s m _ 0)]; simp [h])
    exact Ne.symm this
  have huctx : u.ctx mv.ctx = some o :=
    (removePin_ctx _ _ hnot ((inPhase_of s ho _).trans (by simp [hp]))).trans ho
  have hflows : Flows s u := (flows_setMover s m _).trans (flows_removePin _ n mv.ctx)
  obtain ⟨hleft, hguard⟩ := removePin_spec (s.setMover m (some mv')) n mv.ctx hl
  have hu : OnlyIn [.ringFetcher, .scheduler, .lineTable, .movers, .storeController, .responseUnit] s u :=
    ((onlyIn_setMover s m _).mono (by simp)).trans ((onlyIn_removePin _ n mv.ctx).mono (by simp))
  have humover : ∀ j, u.mover j = (s.setMover m (some mv')).mover j := fun j => mover_congr (by simp [u]) j
  have huline : ∀ j, j ≠ n → u.line j = s.line j := fun j hj => by
    rw [removePin_line_other _ _ hj, State.setMover_line]
  -- What every branch leaves alone follows from what the last step leaves alone.
  have rest : ∀ v, OnlyIn [.ringFetcher, .scheduler, .movers, .responseUnit] u v → Flows u v →
      (∀ d, d ≠ mv.ctx → v.ctx d = u.ctx d) → (∀ j, j ≠ m → v.mover j = u.mover j) → v.sched.ready = u.sched.ready →
      OnlyIn [.ringFetcher, .scheduler, .lineTable, .movers, .storeController, .responseUnit] s (settleIdle v) ∧
      (∀ j, j ≠ n → (settleIdle v).line j = s.line j) ∧ LineLeft s n l (settleIdle v) ∧
      GuardRetested s l (settleIdle v) ∧ ∀ j, j ≠ m → (settleIdle v).mover j = s.mover j := by
    intro v hv hvf hvc hvm hvr
    have hvl : v.lines = u.lines := hv.2.2 .lineTable (by simp)
    refine ⟨onlyIn_settleIdle s (hu.trans (hv.mono (by simp))), fun j hj => ?_, ?_, ?_, fun j hj => ?_⟩
    · rw [settleIdle_line, line_congr hvl, huline j hj]
    · exact (LineLeft.after (s := s) (u := u) hleft (line_congr hvl n) (hv.2.2 .storeController (by simp)) hvf
        fun h => hvc 0 (hclosed h)).settle
    · refine GuardRetested.after (s := s) (u := u) hguard ((settleIdle_ready v).trans hvr) fun d hd => ?_
      rw [settleIdle_ctx, hvc d]
      rintro rfl
      rw [inPhase_of s ho] at hd
      simp [hp] at hd
    · rw [settleIdle_mover, hvm j hj, humover, State.setMover_other _ _ _ _ hj]
  have staged : ∀ x, (setStage mv.ctx x u).ctx mv.ctx = some { o with stage := some x } := fun x => by
    rw [setStage_ctx, if_pos rfl, huctx]
    rfl
  have stagedRest := fun x => rest (setStage mv.ctx x u) ((onlyIn_setStage mv.ctx x).mono (by simp)) (flows_modCtx u _ _)
    (fun d hd => by rw [setStage_ctx, if_neg hd]) (fun j _ => mover_congr (by simp [setStage]) j) (by simp [setStage])
  have stagedMover : ∀ x, (settleIdle (setStage mv.ctx x u)).mover m = some { mv with overtaken := ovt } := fun x => by
    rw [settleIdle_mover, mover_congr (s := u) (by simp [setStage]), humover, State.setMover_same, hover]
  refine ⟨settleIdle t, hexec, ?_⟩
  by_cases hnext : k + 1 < (firstAppearances (taps.map MixTap.line)).length
  · rw [if_pos hnext] at ht ⊢
    obtain ⟨h1, h2, h3, h4, h5⟩ := stagedRest (.ending (k + 1))
    rw [ht]
    exact ⟨h1, h2, h3, h4, h5, by rw [settleIdle_ctx, staged], stagedMover _⟩
  · rw [if_neg hnext] at ht ⊢
    cases hdest : dest with
    | none =>
      have ht' : t = finish mv.ctx r.status r.pos r.aux (u.setMover m none) := by rw [ht, hdest]; rfl
      let v := u.setMover m none
      have hv : Flows u v := flows_setMover u m none
      obtain ⟨h1, h2, h3, h4, h5⟩ := rest t (by
          rw [ht']
          exact ((onlyIn_setMover u m none).mono (by simp)).trans ((onlyIn_finish v _ _ _ _).mono (by simp)))
        (by rw [ht']; exact hv.trans (flows_finish v _ _ _ _)) (fun d hd => by rw [ht', finish_other v _ _ _ hd]; rfl)
        (fun j hj => by
          rw [ht', mover_congr (s := v) (by simp [v]), State.setMover_other _ _ _ _ hj])
        (by rw [ht']; simp)
      rw [if_pos rfl]
      refine ⟨h1, h2, h3, h4, h5, endsWith_settleIdle s ?_, ?_⟩
      · rw [ht']
        exact (hflows.trans hv).endsWith (.of_eq (huctx.trans ho.symm)) _ _ _
      · rw [settleIdle_mover, ht', mover_congr (s := v) (by simp [v]), State.setMover_same]
    | some j =>
      have ht' : t = setStage mv.ctx (.destination r.status r.pos r.aux) u := by rw [ht, hdest]; rfl
      obtain ⟨h1, h2, h3, h4, h5⟩ := stagedRest (.destination r.status r.pos r.aux)
      rw [if_neg (by simp), ht']
      exact ⟨h1, h2, h3, h4, h5, by rw [settleIdle_ctx, staged], stagedMover _⟩

end Sys2Proof.Machine

/-! PROOF. The re-check of a MIX at its mover grant: the pins removed and the queue left when it fails, the pin placed and
the runs begun when it passes (R6, R11, R15, R119, R132). -/

namespace Sys2Proof.Machine

variable (s : State)

/-! ### The pins of a read removed line by line -/

/-- A line entry without the pins of the operation in a context (R11). -/
def unpinned (c : CtxId) (l : Line) : Line := { l with pins := l.pins.filter fun x => decide (x.ctx ≠ c) }

/-- A line entry that the drain test frees (R6). -/
def emptied (l : Line) : Bool := decide (l.state = .closing) && drained l

theorem emptied_iff (l : Line) :
    emptied l = true ↔ l.state = .closing ∧ l.writers = [] ∧ l.park = [] ∧ l.pins = [] := by
  simp [emptied, drained_iff]

/-- The free extents once those of some of the lines of a list are returned, one line after the other (R24, R132). -/
def returnAll (s : State) (ns : List LineId) (freed : LineId → Bool) : List Extent :=
  (ns.filter freed).foldl (fun es j => returnExtents (s.line j).extents es) s.store.freeExts

/-- The lines of a list, made `left`, have had their drain test. -/
structure LetGo (s : State) (ns : List LineId) (left : LineId → Line) (t : State) : Prop where
  line : ∀ j, t.line j = if j ∈ ns then if emptied (left j) then Line.freeLine else left j else s.line j
  store : t.store = { s.store with freeExts := returnAll s ns fun j => emptied (left j) }
  closes : ∀ j ∈ ns, emptied (left j) = true → ∀ q, s.ctx 0 = some q → q.body = some (.closeLine j) →
    q.phase = .acting → EndsWith s 0 ⟨.ok, (left j).w, q.ended⟩ t

variable {s}

/-- An operation that has ended is in no phase but DONE. -/
theorem EndsWith.not_inPhase {c : CtxId} {r : Settled} {t : State} {o : Operation} {p : Phase} (h : EndsWith s c r t)
    (ho : s.ctx c = some o) (hp : p ≠ .done) : t.inPhase c p = false := by
  refine Bool.eq_false_iff.2 fun hin => ?_
  obtain ⟨q, hq, hqp⟩ := (inPhase_iff t c p).1 hin
  have := h o ho
  split at this
  · obtain ⟨⟨x, hx, hx', -⟩, -⟩ := this
    cases hq.symm.trans hx
    exact hp (hqp.symm.trans hx')
  · cases hq.symm.trans this

theorem not_holdsCloseLine_of_phase {t : State} (h : t.inPhase 0 .acting = false) (n : LineId) :
    holdsCloseLine n t = false := by
  refine Bool.eq_false_iff.2 fun hc => ?_
  obtain ⟨q, hq, -, hp⟩ := (holdsCloseLine_iff t n).1 hc
  exact Bool.eq_false_iff.1 h ((inPhase_iff t 0 .acting).2 ⟨q, hq, hp⟩)

theorem not_holdsSetLine_of_phase {t : State} (h : t.inPhase 0 .acting = false) (n : LineId) :
    holdsSetLine n t = false := by
  refine Bool.eq_false_iff.2 fun hc => ?_
  obtain ⟨q, _, _, hq, -, hp⟩ := (holdsSetLine_iff t n).1 hc
  exact Bool.eq_false_iff.1 h ((inPhase_iff t 0 .acting).2 ⟨q, hq, hp⟩)

/-- A line left by an event, its drain test decided by `emptied`. -/
theorem LineLeft.decided {n : LineId} {l : Line} {t : State} (h : LineLeft s n l t) :
    t.line n = (if emptied l then Line.freeLine else l) ∧
      t.store = { s.store with
        freeExts := if emptied l then returnExtents l.extents s.store.freeExts else s.store.freeExts } ∧
      (emptied l = true → ∀ q, s.ctx 0 = some q → q.body = some (.closeLine n) → q.phase = .acting →
        EndsWith s 0 ⟨.ok, l.w, q.ended⟩ t) := by
  unfold LineLeft at h
  split at h
  · next hd =>
    have he := (emptied_iff l).2 hd
    simp only [he, if_true]
    exact ⟨h.1, h.2.1, fun _ => h.2.2⟩
  · next hd =>
    have he : emptied l = false := Bool.eq_false_iff.2 (mt (emptied_iff l).1 hd)
    simp only [he, Bool.false_eq_true, if_false]
    exact ⟨h.1, h.2, fun h => by cases h⟩

variable (s)

theorem returnAll_one (n : LineId) (freed : LineId → Bool) : returnAll s [n] freed =
    if freed n then returnExtents (s.line n).extents s.store.freeExts else s.store.freeExts := by
  by_cases h : freed n = true
  · simp [returnAll, h]
  · simp [returnAll, h]

/-- A pin removed from a line that does not drain by it touches no operation but a writer in GUARD_WAIT (R13). -/
theorem removePin_ctx_kept {n : LineId} {c d : CtxId} (h : emptied (unpinned c (s.line n)) = false)
    (hp : s.inPhase d .guardWait = false) : (removePin n c s).ctx d = s.ctx d := by
  let u := s.setLine n (unpinned c (s.line n))
  have hline : (guardRecheck n u).line n = unpinned c (s.line n) := by simp [u]
  have hnot : drainTest n (guardRecheck n u) = guardRecheck n u := by
    refine if_neg fun hd => Bool.eq_false_iff.1 h ?_
    rw [hline] at hd
    simp [emptied, hd.1, hd.2]
  rw [show removePin n c s = drainTest n (guardRecheck n u) from rfl, hnot, guardRecheck_ctx u (by exact hp)]
  rfl

/-- Pins removed touch no operation but a writer in GUARD_WAIT and the CLOSE_LINE of a line that drains (R13, R132). -/
theorem removePins_ctx (ns : List LineId) (c : CtxId) (hnd : ns.Nodup) {d : CtxId}
    (h : d ≠ 0 ∨ ∀ n ∈ ns, holdsCloseLine n s = false ∨ emptied (unpinned c (s.line n)) = false)
    (hp : s.inPhase d .guardWait = false) : (removePins ns c s).ctx d = s.ctx d := by
  induction ns generalizing s with
  | nil => rfl
  | cons n ns ih =>
    obtain ⟨hn, hnd⟩ := List.nodup_cons.1 hnd
    have hd : (removePin n c s).ctx d = s.ctx d := by
      rcases h with h | h
      · exact removePin_ctx s c (.inl h) hp
      · rcases h n (by simp) with h | h
        · exact removePin_ctx s c (.inr h) hp
        · exact removePin_ctx_kept s h hp
    refine (ih (removePin n c s) hnd ?_ ((inPhase_congr s hd _).trans hp)).trans hd
    by_cases h0 : d = 0
    · subst h0
      refine .inr fun j hj => ?_
      rw [holdsCloseLine_congr s hd, removePin_line_other s c fun hjn : j = n => hn (hjn ▸ hj)]
      exact h.resolve_left (by simp) j (by simp [hj])
    · exact .inl h0

theorem sameBody_drainTest (n : LineId) (d : CtxId) : SameBody d s (drainTest n s) := by
  unfold drainTest
  dsimp only
  split
  · split
    · exact (SameBody.of_eq rfl).trans (sameBody_finish _ 0 d _ _ _)
    · exact .of_eq rfl
  · exact .of_eq rfl

theorem sameBody_removePins (ns : List LineId) (c d : CtxId) : SameBody d s (removePins ns c s) := by
  induction ns generalizing s with
  | nil => exact .of_eq rfl
  | cons n ns ih =>
    have hrecheck : ∀ u : State, SameBody d u (guardRecheck n u) := fun u => by
      unfold guardRecheck
      dsimp only
      split
      · exact .of_eq rfl
      · split
        · exact sameBody_makeReady u _ d
        · exact .of_eq rfl
    exact (((SameBody.of_eq rfl).trans (hrecheck (s.setLine n _))).trans (sameBody_drainTest _ n d)).trans
      (ih (removePin n c s))

/-- What removing the pins of a read does to the lines it names. -/
theorem removePins_letGo (ns : List LineId) (c : CtxId) (hnd : ns.Nodup) :
    LetGo s ns (fun j => unpinned c (s.line j)) (removePins ns c s) := by
  induction ns generalizing s with
  | nil => exact ⟨fun j => by simp [removePins], rfl, fun j hj => by simp at hj⟩
  | cons n ns ih =>
    obtain ⟨hn, hns⟩ := List.nodup_cons.1 hnd
    let u := removePin n c s
    obtain ⟨hleft, -⟩ := removePin_spec s n c (l := unpinned c (s.line n)) rfl
    have hother : ∀ j ∈ ns, u.line j = s.line j := fun j hj => removePin_line_other s c fun h => hn (h ▸ hj)
    have hflows : Flows s u := flows_removePin s n c
    obtain ⟨hline, hstore, hcloses⟩ := ih u hns
    obtain ⟨hfirst, hustore, hclose⟩ := hleft.decided
    rw [show (unpinned c (s.line n)).extents = (s.line n).extents from rfl,
      ← returnAll_one s n fun j => emptied (unpinned c (s.line j))] at hustore
    refine ⟨fun j => ?_, ?_, fun j hj he q hq hb hp => ?_⟩
    · rw [show removePins (n :: ns) c s = removePins ns c u from rfl, hline]
      by_cases hj : j ∈ ns
      · simp only [hj, if_true, List.mem_cons, or_true, hother j hj]
      · rw [if_neg hj]
        by_cases hjn : j = n
        · subst hjn
          rw [hfirst, if_pos List.mem_cons_self]
        · rw [if_neg (by simp [hj, hjn])]
          exact removePin_line_other s c hjn
    · rw [show removePins (n :: ns) c s = removePins ns c u from rfl, hstore, hustore]
      have hfilter : (ns.filter fun j => emptied (unpinned c (u.line j))) =
          ns.filter fun j => emptied (unpinned c (s.line j)) :=
        List.filter_congr fun j hj => by rw [hother j hj]
      have hfold : ∀ es, (ns.filter fun j => emptied (unpinned c (s.line j))).foldl
          (fun es j => returnExtents (u.line j).extents es) es =
          (ns.filter fun j => emptied (unpinned c (s.line j))).foldl
            (fun es j => returnExtents (s.line j).extents es) es := fun es =>
        List.foldl_ext _ _ _ fun es j hj => by rw [hother j (List.mem_filter.1 hj).1]
      unfold returnAll
      rw [hfilter, hfold, hustore, returnAll, ← List.foldl_append, ← List.filter_append]
      rfl
    · have hnot : q.phase ≠ .guardWait := by simp [hp]
      rcases List.mem_cons.1 hj with rfl | hj
      · have hends : EndsWith s 0 ⟨.ok, (unpinned c (s.line j)).w, q.ended⟩ u :=
          hclose he q hq hb hp
        have hacting := hends.not_inPhase hq (p := .acting) (by simp)
        exact hends.after (flows_removePins u ns c) (removePins_ctx u ns c hns
          (.inr fun k _ => .inl (not_holdsCloseLine_of_phase hacting k)) (hends.not_inPhase hq (by simp)))
      · have hctx : u.ctx 0 = s.ctx 0 := removePin_ctx s c (.inr (Bool.eq_false_iff.2 fun h => by
          obtain ⟨x, hx, hxb, -⟩ := (holdsCloseLine_iff s n).1 h
          cases hq.symm.trans hx
          cases hb.symm.trans hxb
          exact hn hj)) ((inPhase_of s hq _).trans (by simpa using hnot))
        have := hcloses j hj (by simpa only [hother j hj] using he) q (hctx.trans hq) hb hp
        simp only [hother j hj] at this
        exact this.before hflows (.of_eq hctx)

variable {s}

/-- The lines let go stay so over steps that leave them, the store and their CLOSE_LINE alone. -/
theorem LetGo.after {ns : List LineId} {left : LineId → Line} {u t : State} (h : LetGo s ns left u)
    (hl : t.lines = u.lines) (hs : t.store = u.store) (hf : Flows u t)
    (h0 : ∀ q j, s.ctx 0 = some q → q.body = some (.closeLine j) → t.ctx 0 = u.ctx 0) : LetGo s ns left t :=
  ⟨fun j => by rw [line_congr hl, h.line], hs.trans h.store,
    fun j hj he q hq hb hp => (h.closes j hj he q hq hb hp).after hf (h0 q j hq hb)⟩

theorem LetGo.congr {ns ns' : List LineId} {left left' : LineId → Line} {t : State} (h : LetGo s ns left t)
    (hns : ns' = ns) (hleft : ∀ j ∈ ns, left' j = left j) : LetGo s ns' left' t := by
  subst hns
  refine ⟨fun j => ?_, ?_, fun j hj => ?_⟩
  · rw [h.line]
    by_cases hj : j ∈ ns'
    · simp only [hj, if_true, hleft j hj]
    · simp only [hj, if_false]
  · rw [h.store]
    unfold returnAll
    rw [show (ns'.filter fun j => emptied (left' j)) = ns'.filter fun j => emptied (left j) from
      List.filter_congr fun j hj => by rw [hleft j hj]]
  · rw [hleft j hj]
    exact h.closes j hj

/-! ### A MIX that fails its re-check -/

/-- A line entry as a MIX that fails its re-check leaves it, its drain test aside (R11, R15, R119). -/
def failedLeft (s : State) (c : CtxId) (dest : Option LineId) (earlier : List LineId) (j : LineId) : Line :=
  { s.line j with
    pins := if j ∈ earlier then (s.line j).pins.filter (fun x => decide (x.ctx ≠ c)) else (s.line j).pins
    writers := if dest = some j then (s.line j).writers.tail else (s.line j).writers
    policy := if dest = some j ∧ (s.line j).held = true then .guarded else (s.line j).policy
    held := if dest = some j then false else (s.line j).held }

/-- The lines a MIX that fails its re-check lets go, in the order of their drain tests. -/
def letGoLines (dest : Option LineId) (earlier : List LineId) : List LineId :=
  (earlier.filter fun j => decide (dest ≠ some j)) ++ dest.toList

theorem failedLeft_of_ne {c : CtxId} {dest : Option LineId} {earlier : List LineId} {j : LineId} (hd : dest ≠ some j)
    (hj : j ∈ earlier) : failedLeft s c dest earlier j = unpinned c (s.line j) := by
  simp [failedLeft, unpinned, hd, hj]

/-- The head of its destination's queue leaves after its pins: the line entry is then as `failedLeft` says. -/
theorem headLeft_failedLeft (c : CtxId) (earlier : List LineId) (j : LineId) :
    headLeft (if j ∈ earlier then unpinned c (s.line j) else s.line j) = failedLeft s c (some j) earlier j := by
  by_cases h : j ∈ earlier <;> by_cases hh : (s.line j).held = true <;> simp [headLeft, failedLeft, unpinned, h, hh]

variable (s)

/-- A MIX that fails its re-check lets its earlier lines and its destination go, ends, and makes the next writer of its
destination active (R119). -/
theorem failGrant_spec (m : MoverId) {c : CtxId} {o : Operation} {dest : Option LineId} {earlier : List LineId}
    (r : Settled) (ho : s.ctx c = some o) (hb : ∀ j, o.body ≠ some (.closeLine j))
    (hp : o.phase = .ready) (hnd : earlier.Nodup)
    (hdest : ∀ j, dest = some j → ((s.line j).writers.map Writer.ctx).Nodup ∧
      (s.line j).writers.head?.map Writer.ctx = some c ∧ ∀ y ∈ (s.line j).writers, y.ctx ≠ 0)
    {t : State} (ht : t = failGrant m c dest earlier r s) :
    LetGo s (letGoLines dest earlier) (failedLeft s c dest earlier) t ∧ EndsWith s c r t ∧
      ∀ j, dest = some j → HeldChangeMade s j (s.line j).w t ∧
        ∀ y ys, (failedLeft s c dest earlier j).writers = y :: ys →
          (t.inPhase y.ctx (nextPhase (failedLeft s c dest earlier j)) = true ∨ s.ctx y.ctx = none) ∧
            ∀ d ∈ nextReady (failedLeft s c dest earlier j), d ∈ t.sched.ready := by
  let u := removePins earlier c (s.setMover m none)
  have hu : LetGo s earlier (fun j => unpinned c (s.line j)) u := by
    obtain ⟨h1, h2, h3⟩ := removePins_letGo (s.setMover m none) earlier c hnd
    exact ⟨h1, h2, h3⟩
  have hnot : ∀ n, c ≠ 0 ∨ holdsCloseLine n (s.setMover m none) = false := fun n =>
    not_closeLine_of (s.setMover m none) ho (hb n)
  have hflows : Flows s u := (flows_setMover s m none).trans (flows_removePins _ earlier c)
  have huc : u.ctx c = s.ctx c := by
    refine removePins_ctx (s.setMover m none) earlier c hnd ?_ ((inPhase_of s ho _).trans (by simp [hp]))
    by_cases h0 : c = 0
    · exact .inr fun n _ => .inl ((hnot n).resolve_left (by simp [h0]))
    · exact .inl h0
  have hzero : ∀ q j, s.ctx 0 = some q → q.body = some (.closeLine j) → (0 : CtxId) ≠ c := by
    rintro q j hq hqb rfl
    cases ho.symm.trans hq
    exact hb j hqb
  cases hd : dest with
  | none =>
    subst hd
    have ht' : t = finish c r.status r.pos r.aux u := ht
    refine ⟨?_, ?_, fun j hj => by cases hj⟩
    · rw [ht']
      refine LetGo.after (hu.congr ?_ fun j hj => failedLeft_of_ne (by simp) hj) (by simp) (by simp)
        (flows_finish u _ _ _ _) fun q j hq hqb => finish_other u _ _ _ (hzero q j hq hqb)
      simp [letGoLines]
    · rw [ht']
      exact hflows.endsWith (.of_eq huc) _ _ _
  | some j =>
    subst hd
    obtain ⟨hwnd, hhead, hwz⟩ := hdest j rfl
    obtain ⟨x, xs, hw⟩ : ∃ x xs, (s.line j).writers = x :: xs := by
      cases h : (s.line j).writers with
      | nil => rw [h] at hhead; cases hhead
      | cons x xs => exact ⟨x, xs, rfl⟩
    rw [hw] at hwnd hhead hwz
    have hxc : x.ctx = c := by simpa using hhead
    have hc0 : c ≠ 0 := hxc ▸ hwz x (by simp)
    let l := failedLeft s c (some j) earlier j
    let v := leaveHead j u
    let w := drainTest j v
    have ht' : t = finish c r.status r.pos r.aux w := ht
    have hlwriters : l.writers = xs := by simp [l, failedLeft, hw]
    have huline : u.line j = if j ∈ earlier then unpinned c (s.line j) else s.line j := by
      rw [hu.line]
      have : emptied (unpinned c (s.line j)) = false :=
        Bool.eq_false_iff.2 fun h => by simpa [unpinned, hw] using ((emptied_iff _).1 h).2.1
      simp only [this, Bool.false_eq_true, if_false]
    have hvline : v.line j = l := by rw [leaveHead_line, huline, headLeft_failedLeft]
    have huw : (u.line j).writers = x :: xs := by rw [huline, ← hw]; split <;> rfl
    have hxs : ∀ y ∈ xs, y.ctx ≠ 0 := fun y hy => hwz y (by simp [hy])
    have htail : (u.line j).writers.tail.head?.map Writer.ctx ≠ some 0 := by
      rw [huw]
      exact head_ne_zero hxs
    have hvflows : Flows u v := flows_leaveHead u j
    have hbody : ∀ q, u.ctx 0 = some q → ∃ x, s.ctx 0 = some x ∧ q.body = x.body :=
      sameBody_removePins (s.setMover m none) earlier c 0
    have hkept : ∀ q, s.ctx 0 = some q → q.body = some (.closeLine j) ∨ (∃ p lap, q.body = some (.setLine j p lap)) →
        q.phase = .acting → u.ctx 0 = s.ctx 0 := fun q hq hqb hqp => by
      refine removePins_ctx (s.setMover m none) earlier c hnd (.inr fun k hk => ?_)
        ((inPhase_of s hq _).trans (by simp [hqp]))
      by_cases hkj : k = j
      · subst hkj
        exact .inr (Bool.eq_false_iff.2 fun h => by simpa [unpinned, hw] using ((emptied_iff _).1 h).2.1)
      · refine .inl (Bool.eq_false_iff.2 fun h => ?_)
        obtain ⟨y, hy, hyb, -⟩ := (holdsCloseLine_iff _ k).1 h
        cases hq.symm.trans hy
        rcases hqb with hqb | ⟨p, lap, hqb⟩
        · cases hqb.symm.trans hyb
          exact hkj rfl
        · cases hqb.symm.trans hyb
    have hclosing : ∀ q k, s.ctx 0 = some q → q.body = some (.closeLine k) → v.ctx 0 = u.ctx 0 := fun q k hq hqb => by
      refine leaveHead_ctx_kept u (.inr (Bool.eq_false_iff.2 fun h => ?_)) htail
      obtain ⟨y, p, lap, hy, hyb, -⟩ := (holdsSetLine_iff u j).1 h
      obtain ⟨z, hz, he⟩ := hbody y hy
      cases hq.symm.trans hz
      cases hqb.symm.trans (he.symm.trans hyb)
    have hleft : LineLeft u j l w := drainTest_lineLeft u hvline (by simp [v]) hvflows fun _ h => by
      obtain ⟨y, hy, hyb, -⟩ := (holdsCloseLine_iff u j).1 h
      obtain ⟨z, hz, he⟩ := hbody y hy
      exact hclosing z j hz (he.symm.trans hyb)
    obtain ⟨hline, hstore, hclose⟩ := hleft.decided
    have hletgo : LetGo s (letGoLines (some j) earlier) (failedLeft s c (some j) earlier) w := by
      refine ⟨fun k => ?_, ?_, fun k hk he q hq hqb hqp => ?_⟩
      · by_cases hkj : k = j
        · subst hkj
          have hmem : k ∈ letGoLines (some k) earlier := by simp [letGoLines]
          rw [hline, if_pos hmem]
        · rw [drainTest_line_other _ hkj, leaveHead_line_other _ hkj, hu.line]
          have hmem : k ∈ letGoLines (some j) earlier ↔ k ∈ earlier := by simp [letGoLines, hkj, Ne.symm hkj]
          by_cases hk : k ∈ earlier
          · rw [if_pos hk, if_pos (hmem.2 hk), failedLeft_of_ne (by simpa using Ne.symm hkj) hk]
          · rw [if_neg hk, if_neg (mt hmem.1 hk)]
      · have hfilter : (earlier.filter fun k => emptied (unpinned c (s.line k))) =
            (earlier.filter fun k => decide (some j ≠ some k)).filter
              fun k => emptied (failedLeft s c (some j) earlier k) := by
          rw [List.filter_filter]
          refine List.filter_congr fun k hk => ?_
          by_cases hkj : k = j
          · subst hkj
            have : emptied (unpinned c (s.line k)) = false :=
              Bool.eq_false_iff.2 fun h => by simpa [unpinned, hw] using ((emptied_iff _).1 h).2.1
            simp [this]
          · rw [failedLeft_of_ne (by simpa using Ne.symm hkj) hk]
            simp [Ne.symm hkj]
        rw [hstore, hu.store]
        unfold returnAll letGoLines
        rw [hfilter, List.filter_append, List.foldl_append, Option.toList_some]
        by_cases he : emptied l = true
        · rw [if_pos he, List.filter_cons_of_pos (by exact he)]
          rfl
        · rw [if_neg he, List.filter_cons_of_neg (by exact he)]
          rfl
      · by_cases hkj : k = j
        · subst hkj
          have h0 := hkept q hq (.inl hqb) hqp
          exact (hclose he q (h0.trans hq) hqb hqp).before hflows (.of_eq h0)
        · have hk : k ∈ earlier := by simpa [letGoLines, hkj, Ne.symm hkj] using hk
          rw [failedLeft_of_ne (by simpa using Ne.symm hkj) hk] at he ⊢
          have hends := hu.closes k hk he q hq hqb hqp
          have hv0 := hclosing q k hq hqb
          have hacting := (inPhase_congr u hv0 .acting).trans (hends.not_inPhase hq (by simp))
          exact hends.after (hvflows.trans (flows_drainTest v j))
            ((drainTest_ctx v (.inr (not_holdsCloseLine_of_phase hacting j))).trans hv0)
    refine ⟨?_, ?_, fun k hk => ?_⟩
    · rw [ht']
      exact hletgo.after (by simp) (by simp) (flows_finish w _ _ _ _) fun q k hq hqb =>
        finish_other w _ _ _ (hzero q k hq hqb)
    · rw [ht']
      refine (hflows.trans (hvflows.trans (flows_drainTest v j))).endsWith ?_ _ _ _
      exact ((SameOp.of_eq huc).trans (sameOp_leaveHead u j hc0)).trans (sameOp_drainTest v j hc0)
    · cases hk
      have hheadLeft : headLeft (u.line j) = l := (leaveHead_line u j).symm.trans hvline
      refine ⟨fun hh q policy lap hq hqb hqp => ?_, fun y ys hy => ?_⟩
      · have h0 := hkept q hq (.inr ⟨policy, lap, hqb⟩) hqp
        have hheld : (u.line j).held = true := by rw [huline, ← hh]; split <;> rfl
        have hw' : (u.line j).w = (s.line j).w := by rw [huline]; split <;> rfl
        have hends := leaveHead_held u (n := j) (by rw [huw]; exact hwz) hheld q policy lap (h0.trans hq) hqb hqp
        rw [hw'] at hends
        have hacting := hends.not_inPhase (h0.trans hq) (p := .acting) (by simp)
        rw [ht']
        refine (hends.before hflows (.of_eq h0)).after ((flows_drainTest v j).trans (flows_finish w _ _ _ _)) ?_
        rw [finish_other w _ _ _ (Ne.symm hc0), drainTest_ctx v (.inr (not_holdsCloseLine_of_phase hacting j))]
      · have hxsy : xs = y :: ys := hlwriters.symm.trans hy
        have hy0 : y.ctx ≠ 0 := hxs y (by simp [hxsy])
        have hyc : y.ctx ≠ c := by
          rintro rfl
          simp [hxsy, hxc] at hwnd
        have hready : t.sched.ready = u.sched.ready ++ nextReady l := by
          rw [ht', ← hheadLeft, ← leaveHead_ready u j]
          simp [w, v]
        refine ⟨?_, fun d hd => by rw [hready]; exact List.mem_append_right _ hd⟩
        cases hsy : s.ctx y.ctx with
        | none => exact .inr rfl
        | some q =>
          obtain ⟨p, hup, -, -⟩ := sameOp_removePins (s.setMover m none) earlier c hy0 q hsy
          have hty : t.ctx y.ctx = some { p with phase := nextPhase l } := by
            rw [ht', finish_other w _ _ _ hyc, drainTest_ctx v (.inl hy0), leaveHead_ctx u (.inl hy0),
              if_pos (by rw [huw, hxsy]; rfl), hup, hheadLeft]
            rfl
          exact .inl ((inPhase_of t hty _).trans (decide_eq_true rfl))

/-! ### The visit and the grant -/

/-- A MIX's visit of its re-check begins in `u`: in the grant the MIX leaves the READY operations with a fresh mover,
between visits nothing has changed (R119, R158). -/
structure VisitBegun (s : State) (c : CtxId) (o : Operation) (m : MoverId) (mv : Mover) (k : Nat) (ready : List CtxId)
    (u : State) : Prop where
  only : OnlyIn [.scheduler, .movers] s u
  flows : Flows s u
  op : u.ctx c = some { o with stage := some (.grant k) }
  other : ∀ d, d ≠ c → u.ctx d = s.ctx d
  mover : u.mover m = some mv
  movers : ∀ j, j ≠ m → u.mover j = s.mover j
  ready : u.sched.ready = ready

variable {s}

theorem VisitBegun.lines {c : CtxId} {o : Operation} {m : MoverId} {mv : Mover} {k : Nat} {ready : List CtxId} {u : State}
    (h : VisitBegun s c o m mv k ready u) : u.lines = s.lines := h.only.2.2 .lineTable (by simp)

theorem VisitBegun.store {c : CtxId} {o : Operation} {m : MoverId} {mv : Mover} {k : Nat} {ready : List CtxId} {u : State}
    (h : VisitBegun s c o m mv k ready u) : u.store = s.store := h.only.2.2 .storeController (by simp)

theorem visitBegun_between {c : CtxId} {o : Operation} {m : MoverId} {mv : Mover} {k : Nat} (ho : s.ctx c = some o)
    (hstage : o.stage = some (.grant k)) (hm : s.mover m = some mv) : VisitBegun s c o m mv k s.sched.ready s :=
  ⟨⟨rfl, rfl, fun b _ => by cases b <;> simp [Same]⟩, Flows.refl s, by rw [ho, ← hstage], fun _ _ => rfl, hm,
    fun _ _ => rfl, rfl⟩

theorem visitBegun_grant {c : CtxId} {o : Operation} (m : MoverId) (ho : s.ctx c = some o) :
    VisitBegun s c o m (freshMover c) 0 (s.sched.ready.filter fun d => decide (d ≠ c))
      ((setStage c (.grant 0) (leaveReady c s)).setMover m (some (freshMover c))) where
  only := (((onlyIn_setReady s _).mono (by simp)).trans ((onlyIn_setStage c _).mono (by simp))).trans
    ((onlyIn_setMover _ m _).mono (by simp))
  flows := ((flows_leaveReady s c).trans (flows_modCtx _ c _)).trans (flows_setMover _ m _)
  op := by rw [State.setMover_ctx, setStage_ctx, if_pos rfl, leaveReady_ctx, ho]; rfl
  other := fun d hd => by rw [State.setMover_ctx, setStage_ctx, if_neg hd, leaveReady_ctx]
  mover := State.setMover_same _ _ _
  movers := fun j hj => by rw [State.setMover_other _ _ _ _ hj]; exact mover_congr (by simp [setStage]) j
  ready := by simp [setStage]

end Sys2Proof.Machine

/-! PROOF. The re-check of a MIX at its mover grant, visit by visit (R119, R120, R158). -/

namespace Sys2Proof.Machine

variable {s : State}

/-- The checks of a visit of the re-check, by the lowest tap overtaken there (R119). -/
theorem grantCheck_eq {n : LineId} {o : Operation} {taps : List MixTap} {gone : Option Nat}
    (h : LowestTapBelow n taps o.starts (oldestCounting (s.line n)) gone) : grantCheck n o taps s =
    if n ∈ o.marks ∧ (s.line n).state ≠ .closing then
      some ⟨.noLine, 0, taps.findIdx (fun x => decide (x.line = n)) + 1⟩
    else gone.map fun i => ⟨.gone, oldestCounting (s.line n), i + 1 + 256 * 3⟩ := by
  rw [← (tapsOn_lowest n taps o.starts (oldestCounting (s.line n))).unique h, Option.map_map]
  rfl

/-- A visit of the re-check whose checks pass (R119, R120). -/
theorem grantVisit_passed (m : MoverId) {c : CtxId} {o : Operation} (dest : Option LineId) (N : Nat) {taps : List MixTap}
    {k : Nat} {n : LineId} (hk : (firstAppearances (taps.map MixTap.line))[k]? = some n)
    (h : grantCheck n o taps s = none) : grantVisit m c o dest N taps k s =
    if k + 1 < (firstAppearances (taps.map MixTap.line)).length then
      setStage c (.grant (k + 1)) (placePin n (mixPin n c o N taps) s)
    else
      pump m (((placePin n (mixPin n c o N taps) s).modCtx c fun x => { x with phase := .moving, stage := none }).setMover m
        (some { freshMover c with runs := mixRuns o N taps })) := by
  simp only [grantVisit, hk, h]

/-- What a visit of the re-check leaves of the line it pins (R11). -/
theorem placePin_spec (c : CtxId) {n : LineId} {o : Operation} {N : Nat} {taps : List MixTap} {t : State}
    (ht : ∀ j, t.line j = (placePin n (mixPin n c o N taps) s).line j) {x : MixTap} {i : Nat} (hx : taps[i]? = some x)
    (hn : x.line = n) :
    (∃ lo hi, t.line n = { s.line n with pins := (s.line n).pins ++ [⟨c, lo, hi⟩] } ∧
      (∀ (i : Nat) (x : MixTap) (p : Nat), taps[i]? = some x → x.line = n → o.starts[i]? = some p →
        lo ≤ p ∧ p + N ≤ hi) ∧
      (taps.length ≤ o.starts.length →
        (∃ (i : Nat) (x : MixTap), taps[i]? = some x ∧ x.line = n ∧ o.starts[i]? = some lo) ∧
          ∃ (i : Nat) (x : MixTap) (p : Nat),
            taps[i]? = some x ∧ x.line = n ∧ o.starts[i]? = some p ∧ p + N = hi)) ∧
      ∀ j, j ≠ n → t.line j = s.line j := by
  obtain ⟨hctx, hspan, hreached⟩ := mixPin_spans n c o N taps _ rfl
  generalize mixPin n c o N taps = pin at *
  obtain ⟨d, lo, hi⟩ := pin
  cases hctx
  refine ⟨⟨lo, hi, ?_, fun i x p h1 h2 h3 => hspan i p ((mem_tapsOn ..).2 ⟨x, h1, h2, h3⟩), fun hlen => ?_⟩, fun j hj => ?_⟩
  · rw [ht, placePin, State.setLine_same]
  · have hi' : i < taps.length := (List.getElem?_eq_some_iff.1 hx).1
    have hmem : (i, o.starts[i]) ∈ tapsOn n taps o.starts :=
      (mem_tapsOn ..).2 ⟨x, hx, hn, List.getElem?_eq_getElem (hi'.trans_le hlen)⟩
    obtain ⟨⟨a, ha⟩, b, p, hb, hp⟩ := hreached (List.ne_nil_of_mem hmem)
    obtain ⟨y, hy⟩ := (mem_tapsOn ..).1 ha
    obtain ⟨z, hz1, hz2, hz3⟩ := (mem_tapsOn ..).1 hb
    exact ⟨⟨a, y, hy⟩, b, z, p, hz1, hz2, hz3, hp⟩
  · rw [ht, placePin, State.setLine_other _ _ _ _ hj]

/-- The blocks a MIX that fails its re-check changes. -/
theorem onlyIn_failGrant (m : MoverId) (c : CtxId) (dest : Option LineId) (earlier : List LineId) (r : Settled) :
    OnlyIn [.ringFetcher, .scheduler, .lineTable, .movers, .storeController, .responseUnit] s
      (failGrant m c dest earlier r s) := by
  let u := removePins earlier c (s.setMover m none)
  have hpins : ∀ (ns : List LineId) (v : State), OnlyIn [.ringFetcher, .scheduler, .lineTable, .storeController,
      .responseUnit] v (removePins ns c v) := fun ns => by
    induction ns with
    | nil => exact fun v => onlyIn_refl v _
    | cons n ns ih => exact fun v => ((onlyIn_removePin v n c).mono (by simp)).trans (ih _)
  have hu : OnlyIn [.ringFetcher, .scheduler, .lineTable, .movers, .storeController, .responseUnit] s u :=
    ((onlyIn_setMover s m none).mono (by simp)).trans ((hpins earlier _).mono (by simp))
  cases dest with
  | none => exact hu.trans ((onlyIn_finish u _ _ _ _).mono (by simp))
  | some n =>
    exact ((hu.trans ((onlyIn_leaveHead u n).mono (by simp))).trans ((onlyIn_drainTest _ n).mono (by simp))).trans
      ((onlyIn_finish _ _ _ _ _).mono (by simp))

theorem failGrant_movers (m : MoverId) (c : CtxId) (dest : Option LineId) (earlier : List LineId) (r : Settled) :
    (failGrant m c dest earlier r s).movers = (s.setMover m none).movers := by
  rw [← (movesNothing_removePins (s.setMover m none) earlier c).movers]
  cases dest <;> simp [failGrant]

/-- Settles O43: each visit's checks first; then `failGrant_spec`, or the pin and after the last line the runs. -/
theorem mixGrant : Obligations.MixGrant := by
  refine ⟨firstAppearances_spec, ?_⟩
  intro s cmd m mv c o dest addr N wait taps k n earlier gone left drains hcmd ho hb hp hk hdest hearlier hgone hleft hdrains
  obtain ⟨u, hexec, hbegun⟩ : ∃ u, exec cmd s = took (grantVisit m c o dest N taps k u) ∧
      VisitBegun s c o m mv k (if cmd = .moverGrant then s.sched.ready.filter (fun d => decide (d ≠ c)) else s.sched.ready)
        u := by
    rcases hcmd with ⟨rfl, hm, rfl, huniq, hstage⟩ | ⟨rfl, rfl, hbest, hm, hlow, rfl⟩
    · refine ⟨s, ?_, visitBegun_between ho hstage hm⟩
      simp only [exec, execMixLineVisit, ho, hb, hstage, moverOf_eq hm huniq]
    · obtain ⟨m', hm', hlow', hexec⟩ := moverGrant_eq hbest ⟨m, hm⟩ ho hb
      have : m' = m := by
        rcases lt_trichotomy m' m with h | h | h
        · exact absurd hm' (hlow m' h)
        · exact h
        · exact absurd hm (hlow' m h)
      subst this
      exact ⟨_, hexec, visitBegun_grant m' ho⟩
  have huline : ∀ j, u.line j = s.line j := line_congr hbegun.lines
  have hstore := hbegun.store
  have hnoclose : ∀ j, o.body ≠ some (.closeLine j) := by simp [hb]
  have hc0 : ∀ q j, s.ctx 0 = some q → q.body = some (.closeLine j) ∨ (∃ p lap, q.body = some (.setLine j p lap)) →
      u.ctx 0 = s.ctx 0 := fun q j hq hqb => hbegun.other 0 (by
    rintro rfl
    cases ho.symm.trans hq
    rcases hqb with hqb | ⟨p, lap, hqb⟩ <;> cases hb.symm.trans hqb)
  let t := grantVisit m c o dest N taps k u
  refine ⟨settleIdle t, hexec, ?_⟩
  have hcheck := grantCheck_eq (s := u) (o := o) (taps := taps) (n := n) (gone := gone) (by rw [huline]; exact hgone)
  rw [huline] at hcheck
  rw [← hcheck]
  cases hres : grantCheck n o taps u with
  | some r =>
    have ht : t = failGrant m c dest earlier r u := by simp only [t, grantVisit, hk, hres, hearlier]
    have hleft' : left = failedLeft u c dest earlier := funext fun j => by rw [hleft, failedLeft, huline]
    have hmem : ∀ j, j ∈ letGoLines dest earlier ↔ j ∈ earlier ∨ dest = some j := fun j => by
      by_cases hd : dest = some j <;> simp [letGoLines, hd]
    have hdrains' : ∀ j ∈ letGoLines dest earlier, drains j = emptied (left j) := fun j hj => by
      have hstate : (left j).state = (s.line j).state := by rw [hleft]
      rw [Bool.eq_iff_iff, hdrains, emptied_iff, hstate, and_iff_right ((hmem j).1 hj)]
    obtain ⟨hgo, hends, hnext⟩ := failGrant_spec u m r hbegun.op hnoclose hp
      (hearlier ▸ (firstAppearances_spec _).1.sublist (List.take_sublist _ _))
      (fun j hj => by rw [huline]; exact hdest j hj) ht
    rw [← hleft'] at hgo hnext
    have hmovers : ∀ j, (settleIdle t).mover j = (u.setMover m none).mover j := fun j => by
      rw [settleIdle_mover, ht]
      exact mover_congr (failGrant_movers m c dest earlier r) j
    have hstore' : (settleIdle t).store = { s.store with
        freeExts := ((letGoLines dest earlier).filter drains).foldl
          (fun es j => returnExtents (s.line j).extents es) s.store.freeExts } := by
      rw [settleIdle_store, hgo.store, hstore, returnAll, hstore, List.filter_congr hdrains']
      simp only [huline]
    refine ⟨onlyIn_settleIdle s ((hbegun.only.mono (by simp)).trans (ht ▸ onlyIn_failGrant m c dest earlier r)),
      by rw [hstore'], fun j hj => by rw [hmovers, State.setMover_other _ _ _ _ hj, hbegun.movers j hj],
      endsWith_settleIdle s (hends.before hbegun.flows ?_), by rw [hmovers, State.setMover_same], fun j => ?_, hstore',
      fun j hj q hq hqb hqp => ?_, fun j hj => ⟨?_, fun y ys hy => ?_⟩⟩
    · exact fun x hx => ⟨_, hbegun.op, by cases ho.symm.trans hx; exact ⟨rfl, rfl⟩⟩
    · rw [settleIdle_line, hgo.line]
      by_cases hj : j ∈ letGoLines dest earlier
      · rw [if_pos hj, hdrains' j hj]
      · have hnot := mt (hmem j).2 hj
        have hkeep : left j = s.line j := by
          obtain ⟨h1, h2⟩ := not_or.1 hnot
          rw [hleft, if_neg h1, if_neg h2, if_neg fun h => h2 h.1, if_neg h2]
        rw [if_neg hj, if_neg fun h => hnot ((hdrains j).1 h).1, hkeep, huline]
    · have hj' := (hmem j).2 ((hdrains j).1 hj).1
      have h0 := hc0 q j hq (.inl hqb)
      have := hgo.closes j hj' (hdrains' j hj' ▸ hj) q (h0.trans hq) hqb hqp
      rw [show (left j).w = (s.line j).w by rw [hleft]] at this
      exact endsWith_settleIdle s (this.before hbegun.flows (.of_eq h0))
    · intro hh q policy lap hq hqb hqp
      have h0 := hc0 q j hq (.inr ⟨policy, lap, hqb⟩)
      have := (hnext j hj).1 (by rwa [huline]) q policy lap (h0.trans hq) hqb hqp
      rw [huline] at this
      exact endsWith_settleIdle s (this.before hbegun.flows (.of_eq h0))
    · obtain ⟨hphase, hready⟩ := (hnext j hj).2 y ys hy
      have hyc : y.ctx ≠ c := by
        obtain ⟨hnd, hhead, -⟩ := hdest j hj
        have hw : (left j).writers = (s.line j).writers.tail := by rw [hleft]; exact if_pos hj
        cases hw' : (s.line j).writers with
        | nil => rw [hw'] at hhead; cases hhead
        | cons z zs =>
          rw [hw, hw'] at hy
          rw [hw'] at hnd hhead
          rintro rfl
          simp_all
      rw [settleIdle_inPhase, settleIdle_ready, ← hbegun.other _ hyc]
      exact ⟨hphase, hready⟩
  | none =>
    let pinned := placePin n (mixPin n c o N taps) u
    have htap : ∃ (i : Nat) (x : MixTap), taps[i]? = some x ∧ x.line = n := by
      have := (firstAppearances_spec _).2.1 n |>.1 (List.mem_of_getElem? hk)
      obtain ⟨x, hx, hxn⟩ := List.mem_map.1 this
      obtain ⟨i, hi⟩ := List.getElem?_of_mem hx
      exact ⟨i, x, hi, hxn⟩
    obtain ⟨i, x, hi, hxn⟩ := htap
    have hpinned : OnlyIn [.ringFetcher, .scheduler, .lineTable, .movers, .storeController, .responseUnit] s pinned :=
      (hbegun.only.mono (by simp)).trans ((onlyIn_setLine u n _).mono (by simp))
    have hpctx : pinned.ctx c = some { o with stage := some (.grant k) } := hbegun.op
    have hpready : pinned.sched.ready =
        if cmd = .moverGrant then s.sched.ready.filter (fun d => decide (d ≠ c)) else s.sched.ready := hbegun.ready
    by_cases hmore : k + 1 < (firstAppearances (taps.map MixTap.line)).length
    · have ht : t = setStage c (.grant (k + 1)) pinned :=
        (grantVisit_passed m dest N hk hres).trans (if_pos hmore)
      obtain ⟨hpin, hothers⟩ := placePin_spec (s := u) c (t := settleIdle t) (o := o) (N := N) (taps := taps) (n := n)
        (fun j => by rw [settleIdle_line, ht]; exact line_congr (by simp [setStage, pinned]) j) hi hxn
      simp only [huline] at hpin hothers
      rw [if_pos hmore]
      refine ⟨onlyIn_settleIdle s (hpinned.trans (ht ▸ (onlyIn_setStage c _).mono (by simp))), ?_, fun j hj => ?_, hpin,
        hothers, ?_, ?_, ?_, ?_⟩
      · rw [settleIdle_store, ht, ← hstore]
        simp [setStage, pinned, placePin]
      · rw [settleIdle_mover, ← hbegun.movers j hj, ht]
        exact mover_congr (by simp [setStage, pinned, placePin]) j
      · rw [settleIdle_ready, ht, ← hpready]
        simp [setStage]
      · rw [settleIdle_ctx, ht, setStage_ctx, if_pos rfl, hpctx]
        rfl
      · rw [settleIdle_mover, ← hbegun.mover, ht]
        exact mover_congr (by simp [setStage, pinned, placePin]) m
      · rw [settleIdle_store, ht, ← hstore]
        simp [setStage, pinned, placePin]
    · let mv' : Mover := { freshMover c with runs := mixRuns o N taps }
      let moving := pinned.modCtx c fun x => { x with phase := .moving, stage := none }
      let v := moving.setMover m (some mv')
      have ht : t = pump m v := (grantVisit_passed m dest N hk hres).trans (if_neg hmore)
      have hvm : v.mover m = some mv' := State.setMover_same _ _ _
      have hvo : v.ctx c = some { o with stage := none, phase := .moving } := by
        rw [State.setMover_ctx, modCtx_ctx, if_pos rfl, hpctx]
        rfl
      have hvstore : v.store = s.store := by
        rw [← hstore]
        simp [v, moving, pinned, placePin]
      have hvlines : v.lines = pinned.lines := by simp [v, moving]
      have hpump : pump m v = askStore m v := pump_rests fun q p j a M hq hp hj _ _ => by
        cases hvm.symm.trans hq
        cases hvo.symm.trans hp
        cases hb.symm.trans hj
      have hmover : (pump m v).mover m = some mv' := by
        rw [hpump, mover_congr (askStore_frame v m).2.2.2.2.2.2.2.2.1, hvm]
      have hasks := (pump_asks hvm hmover hvo hb).settle
      rw [hvstore, ← ht] at hasks
      obtain ⟨hpin, hothers⟩ := placePin_spec (s := u) c (t := settleIdle t) (o := o) (N := N) (taps := taps) (n := n)
        (fun j => by rw [settleIdle_line, ht, line_congr (pump_frame v m).2.2.2.2.1, line_congr hvlines]) hi hxn
      simp only [huline] at hpin hothers
      have hv : OnlyIn [.ringFetcher, .scheduler, .lineTable, .movers, .storeController, .responseUnit] s v :=
        (hpinned.trans ((onlyIn_modCtx pinned c _).mono (by simp))).trans ((onlyIn_setMover _ m _).mono (by simp))
      rw [if_neg hmore]
      refine ⟨onlyIn_settleIdle s (hv.trans ?_), ?_, fun j hj => ?_, hpin, hothers, ?_, ?_, mv', ?_, rfl, rfl, rfl, rfl,
        rfl, rfl, rfl, rfl, rfl, hasks⟩
      · rw [ht, hpump]
        exact (onlyIn_askStore v m).mono (by simp)
      · rw [settleIdle_store, ht, (pump_storeFields v m).1, hvstore]
      · rw [settleIdle_mover, ht, pump_mover_other hj, State.setMover_other _ _ _ _ hj, ← hbegun.movers j hj]
        exact mover_congr (by simp [moving, pinned, placePin]) j
      · rw [settleIdle_ready, ht, (pump_frame v m).2.2.2.1, ← hpready]
        simp [v, moving]
      · rw [settleIdle_ctx, ht, ctx_congr (s := v) (by simp), hvo]
      · rw [settleIdle_mover, ht, hmover]

end Sys2Proof.Machine

/-! PROOF. The items of a post queue discarded, and the response ring control records (R142, R143, R149, R150). -/

namespace Sys2Proof.Machine

variable {s : State}

/-! ### Items discarded -/

/-- What discarding the items of a list does: the contexts of completions free, the flags and slots of notices clear. -/
structure Discarded (is : List PostItem) (s t : State) : Prop where
  ctx : ∀ c, t.ctx c = if .completion c ∈ is then none else s.ctx c
  line : ∀ n, t.line n = if .lap n ∈ is then { s.line n with lapPending := false } else s.line n
  store : t.store = if .storeFault ∈ is then { s.store with faultPending := false } else s.store
  slot : ∀ q, t.resp.faultSlots.get q = if .respFaulted q ∈ is then none else s.resp.faultSlots.get q
  ring : ∀ k, t.ring k =
    { s.ring k with
      notice := if .ringStopped k ∈ is then none else (s.ring k).notice
      window := (t.ring k).window }
  window : ∀ k, (s.ring k).window.Nodup → (t.ring k).window.Nodup ∧ ∀ c, c ∈ (t.ring k).window ↔
    c ∈ (s.ring k).window ∧ ¬(.completion c ∈ is ∧ (s.ctx c).map Operation.ring = some k)
  frame : t.pending = s.pending ∧ t.now = s.now ∧ t.host = s.host ∧ t.link = s.link ∧ t.parkTimer = s.parkTimer ∧
    t.movers = s.movers ∧ t.resp.rings = s.resp.rings ∧ t.resp.posts = s.resp.posts ∧ t.sched.ready = s.sched.ready

theorem Discarded.refl (s : State) : Discarded [] s s :=
  ⟨fun _ => rfl, fun _ => rfl, rfl, fun _ => rfl, fun _ => rfl, fun _ h => ⟨h, by simp⟩, by simp⟩

/-- A completion discarded (R53, R54, R149). -/
theorem freeCtx_discarded (s : State) (c : CtxId) : Discarded [.completion c] s (freeCtx c s) where
  ctx := fun d => by
    by_cases h : d = c
    · subst h; simp [freeCtx_same]
    · simp [h, freeCtx_other s h]
  line := fun n => by simp
  store := by simp
  slot := fun q => by simp
  ring := fun k => by simpa using freeCtx_ring s c k
  window := fun k hk => by
    unfold freeCtx
    cases hc : s.ctx c with
    | none =>
      refine ⟨hk, fun d => ?_⟩
      have : ¬(PostItem.completion d ∈ [PostItem.completion c] ∧ (s.ctx d).map Operation.ring = some k) := by
        rintro ⟨hd, h⟩
        cases List.mem_singleton.1 hd
        simp [hc] at h
      simp only [this, not_false_eq_true, and_true]
    | some o =>
      by_cases hko : k = o.ring
      · subst hko
        simp only [State.setRing_same]
        refine ⟨hk.erase c, fun d => ?_⟩
        rw [hk.mem_erase_iff]
        by_cases hd : d = c
        · subst hd; simp [hc]
        · simp [hd]
      · dsimp only
        rw [State.setRing_other _ _ _ _ hko]
        refine ⟨hk, fun d => ?_⟩
        by_cases hd : d = c
        · subst hd; simp [hc, Ne.symm hko]
        · simp [hd]
  frame := by simp

/-- One item discarded (R143, R149, R150). -/
theorem discardItem_discarded (s : State) (i : PostItem) : Discarded [i] s (discardItem s i) := by
  cases i with
  | completion c => exact freeCtx_discarded s c
  | lap n =>
    refine ⟨fun _ => rfl, fun k => ?_, rfl, fun _ => rfl, fun _ => rfl, fun _ h => ⟨h, fun c => ?_⟩, by simp [discardItem]⟩
    · by_cases h : k = n
      · subst h; simp [discardItem]
      · simp [discardItem, h]
    · simp [discardItem]
  | ringStopped k =>
    refine ⟨fun _ => rfl, fun _ => rfl, rfl, fun _ => rfl, fun j => ?_, fun j h => ?_, by simp [discardItem]⟩
    · by_cases hj : j = k
      · subst hj; simp [discardItem]
      · simp [discardItem, hj]
    · have hw : ((discardItem s (.ringStopped k)).ring j).window = (s.ring j).window := by
        by_cases hj : j = k
        · subst hj; simp [discardItem]
        · simp [discardItem, hj]
      rw [hw]
      exact ⟨h, fun c => by simp⟩
  | storeFault =>
    exact ⟨fun _ => rfl, fun _ => rfl, by simp [discardItem], fun _ => rfl, fun _ => rfl,
      fun _ h => ⟨h, fun c => by simp [discardItem]⟩, by simp [discardItem]⟩
  | respFaulted r =>
    refine ⟨fun _ => rfl, fun _ => rfl, rfl, fun q => ?_, fun _ => rfl,
      fun _ h => ⟨h, fun c => by simp [discardItem]⟩, by simp [discardItem]⟩
    by_cases h : q = r
    · subst h; simp [discardItem, State.setFaultSlot]
    · simp [discardItem, State.setFaultSlot, h]

/-- Items discarded one after the other. -/
theorem Discarded.cons {i : PostItem} {is : List PostItem} {u t : State} (h : Discarded [i] s u) (h' : Discarded is u t) :
    Discarded (i :: is) s t where
  ctx := fun c => by
    rw [h'.ctx, h.ctx]
    by_cases h1 : PostItem.completion c ∈ is <;> simp [h1]
  line := fun n => by
    rw [h'.line, h.line]
    by_cases h1 : PostItem.lap n ∈ is <;> by_cases h2 : PostItem.lap n = i <;> simp [h1, h2]
  store := by
    rw [h'.store, h.store]
    by_cases h1 : PostItem.storeFault ∈ is <;> by_cases h2 : PostItem.storeFault = i <;> simp [h1, h2]
  slot := fun q => by
    rw [h'.slot, h.slot]
    by_cases h1 : PostItem.respFaulted q ∈ is <;> simp [h1]
  ring := fun k => by
    rw [h'.ring, h.ring]
    by_cases h1 : PostItem.ringStopped k ∈ is <;> simp [h1]
  window := fun k hk => by
    obtain ⟨hu, h1⟩ := h.window k hk
    obtain ⟨ht, h2⟩ := h'.window k hu
    refine ⟨ht, fun c => ?_⟩
    rw [h2, h1, h.ctx]
    by_cases hc : PostItem.completion c = i
    · simp [hc]
    · simp [hc]
  frame := by
    obtain ⟨a1, a2, a3, a4, a5, a6, a7, a8, a9⟩ := h.frame
    obtain ⟨b1, b2, b3, b4, b5, b6, b7, b8, b9⟩ := h'.frame
    exact ⟨b1.trans a1, b2.trans a2, b3.trans a3, b4.trans a4, b5.trans a5, b6.trans a6, b7.trans a7, b8.trans a8,
      b9.trans a9⟩

theorem discardAll_discarded (xs : List Posted) (s : State) :
    Discarded (xs.map Posted.item) s (xs.foldl (fun t x => discardItem t x.item) s) := by
  induction xs generalizing s with
  | nil => exact .refl s
  | cons x xs ih => exact (discardItem_discarded s x.item).cons (ih _)

/-- What discarding response ring `r`'s post queue does. -/
structure PostsGone (r : RespId) (s t : State) : Prop where
  ctx : ∀ c, t.ctx c = if ⟨r, .completion c⟩ ∈ s.resp.posts then none else s.ctx c
  line : ∀ n, t.line n = if ⟨r, .lap n⟩ ∈ s.resp.posts then { s.line n with lapPending := false } else s.line n
  store : t.store = if ⟨r, .storeFault⟩ ∈ s.resp.posts then { s.store with faultPending := false } else s.store
  slot : ∀ q, t.resp.faultSlots.get q = if ⟨r, .respFaulted q⟩ ∈ s.resp.posts then none else s.resp.faultSlots.get q
  ring : ∀ k, t.ring k =
    { s.ring k with
      notice := if ⟨r, .ringStopped k⟩ ∈ s.resp.posts then none else (s.ring k).notice
      window := (t.ring k).window }
  window : ∀ k, (s.ring k).window.Nodup → (t.ring k).window.Nodup ∧ ∀ c, c ∈ (t.ring k).window ↔
    c ∈ (s.ring k).window ∧ ¬(⟨r, .completion c⟩ ∈ s.resp.posts ∧ (s.ctx c).map Operation.ring = some k)
  rings : t.resp.rings = s.resp.rings
  posts : t.resp.posts = s.resp.posts.filter fun x => decide (x.ring ≠ r)
  ready : t.sched.ready = s.sched.ready
  host : t.host = s.host
  only : OnlyIn [.ringFetcher, .scheduler, .lineTable, .storeController, .responseUnit] s t

/-- A response ring's post queue discarded (R143, R149, R150). -/
theorem discardPosts_gone (r : RespId) (s : State) : PostsGone r s (discardPosts r s) := by
  have hmem : ∀ i, i ∈ (s.resp.posts.filter fun x => decide (x.ring = r)).map Posted.item ↔ ⟨r, i⟩ ∈ s.resp.posts := by
    intro i
    simp only [List.mem_map, List.mem_filter, decide_eq_true_eq]
    constructor
    · rintro ⟨⟨q, j⟩, ⟨h, rfl⟩, rfl⟩
      exact h
    · exact fun h => ⟨_, ⟨h, rfl⟩, rfl⟩
  have h : Discarded ((s.resp.posts.filter fun x => decide (x.ring = r)).map Posted.item)
      (s.setPosts (s.resp.posts.filter fun x => decide (x.ring ≠ r))) (discardPosts r s) := discardAll_discarded _ _
  obtain ⟨hctx, hline, hstore, hslot, hring, hwindow, h1, h2, h3, h4, h5, h6, h7, h8, h9⟩ := h
  simp only [hmem] at hctx hline hstore hslot hring hwindow
  refine ⟨hctx, hline, hstore, hslot, hring, hwindow, h7, h8, h9, h3, h1, h2, fun b hb => ?_⟩
  cases b
  case hostPort => exact ⟨by rw [h3]; rfl, h4⟩
  case parkTimer => exact h5
  case movers => exact h6
  all_goals simp at hb

/-! ### Command rings bound to a response ring -/

theorem mem_boundRings {r : RespId} {k : RingId} : k ∈ boundRings r s ↔ Bound s r k := by
  simp [boundRings, Table.indices, Bound, State.ring]

theorem boundRings_pairwise (r : RespId) (s : State) : (boundRings r s).Pairwise (· < ·) :=
  List.Pairwise.filter (fun i => decide ((s.fetcher.rings.get i).state ≠ .disabled) &&
    decide ((s.fetcher.rings.get i).resp = r)) (List.pairwise_lt_finRange 16)

theorem boundRings_eq_nil {r : RespId} (h : ∀ k, ¬Bound s r k) : boundRings r s = [] :=
  List.eq_nil_iff_forall_not_mem.2 fun k hk => h k (mem_boundRings.1 hk)

/-- The lowest ring bound stands first. -/
theorem boundRings_lowest {r : RespId} {k : RingId} (hk : Bound s r k) (hlow : ∀ j, j < k → ¬Bound s r j) :
    ∃ ks, boundRings r s = k :: ks := by
  have hmem := mem_boundRings.2 hk
  have hsorted := boundRings_pairwise r s
  cases h : boundRings r s with
  | nil => rw [h] at hmem; cases hmem
  | cons j js =>
    rw [h] at hmem hsorted
    have hj : Bound s r j := mem_boundRings.1 (h ▸ List.mem_cons_self)
    rcases List.mem_cons.1 hmem with rfl | hmem
    · exact ⟨js, rfl⟩
    · exact absurd hj (hlow j ((List.pairwise_cons.1 hsorted).1 k hmem))

/-! ### The response ring control records -/

/-- The completion posted at an operation's end depends on its context, its response ring and that ring's state. -/
theorem completionPost_congr {u : State} {c : CtxId} (hc : u.ctx c = s.ctx c)
    (hr : ∀ o, s.ctx c = some o → (u.ring o.ring).resp = (s.ring o.ring).resp ∧
      (u.respRing (s.ring o.ring).resp).state = (s.respRing (s.ring o.ring).resp).state) :
    completionPost u c = completionPost s c := by
  unfold completionPost
  rw [hc]
  cases ho : s.ctx c with
  | none => rfl
  | some o =>
    obtain ⟨h1, h2⟩ := hr o ho
    simp only [Option.bind_some, h1, h2]

/-- A response ring deleted (R143). -/
def respDeleted (r : RespId) (s : State) : State := (discardPosts r s).setRespRing r RespRing.absentRing

theorem onlyIn_dropItemWait (s : State) : OnlyIn [.hostPort] s (dropItemWait s) :=
  ⟨by simp, by simp, fun b hb => by cases b <;> simp_all [Same]⟩

/-- What stays when a Response Unit gives up its wait for a place and the idle period is settled. -/
theorem settled_dropItemWait (s : State) {t : State} (ht : t = settleIdle (dropItemWait s)) : t.sched = s.sched ∧
    t.fetcher = s.fetcher ∧ t.lines = s.lines ∧ t.parkTimer = s.parkTimer ∧ t.store = s.store ∧ t.resp = s.resp := by
  rw [ht]
  simp

/-- A record that ends without another change (R55). -/
theorem refused_spec (s : State) (c : CtxId) (st : Status) (p a : Nat) {t : State} (ht : t = settleIdle (finish c st p a s)) :
    EndsWith s c ⟨st, p, a⟩ t ∧ OnlyIn [.ringFetcher, .scheduler, .responseUnit] s t ∧ t.resp.rings = s.resp.rings ∧
      t.resp.faultSlots = s.resp.faultSlots ∧ t.resp.posts = s.resp.posts ++ (completionPost s c).toList ∧
      (∀ d, d ≠ c → t.ctx d = s.ctx d) ∧ ∀ k, { t.ring k with window := (s.ring k).window } = s.ring k := by
  have h := onlyEnds_finish s c st p a
  rw [← ht] at h
  refine ⟨h.ends, h.only, ?_, ?_, ?_, h.others, fun k => ?_⟩
  · rw [ht]; simp
  · rw [ht]; simp
  · rw [ht, ← finish_posts s c st p a]; simp
  · rw [ht, settleIdle_ring, finish_ring]

end Sys2Proof.Machine

namespace Sys2Proof

open Machine

/-- Settles O53: a refused record only ends; a delete discards the post queue, then clears the entry. -/
theorem responseControl : Obligations.ResponseControl := by
  constructor
  · intro s c o r logSize count interrupt time base hstart ho hresp
    let x := newRespRing base logSize count interrupt time
    let t := Machine.createResponse c r x s
    have hexec : exec .createResponse s = took t := by simp only [exec, execCreateResponse, hstart, t, x]
    by_cases h : (s.respRing r).state = .absent
    · have ht : t = finish c .ok 0 0 (s.setRespRing r x) := if_pos h
      have hends := endsWith_finish_at (s := s) (u := s.setRespRing r x) (c := c) rfl (fun q hq => by
        cases ho.symm.trans hq
        exact ⟨rfl, by rw [State.setRespRing_other _ _ _ _ hresp]⟩) .ok 0 0
      refine ⟨settleIdle t, hexec, ?_, fun j hj => ?_, fun d hd => ?_, ?_⟩
      · rw [ht]
        exact onlyIn_settleIdle s (((onlyIn_setRespRing s r x).mono (by simp)).trans
          ((onlyIn_finish _ _ _ _ _).mono (by simp)))
      · rw [settleIdle_respRing, ht, finish_respRing, State.setRespRing_other _ _ _ _ hj]
      · rw [settleIdle_ctx, ht, finish_other _ _ _ _ hd]
        rfl
      · rw [if_pos h, settleIdle_respRing, ht, finish_respRing, State.setRespRing_same]
        exact ⟨endsWith_settleIdle s hends, rfl⟩
    · have ht : t = finish c .ringBusy 0 0 s := if_neg h
      obtain ⟨h1, h2, h3, -, -, h6, -⟩ := refused_spec s c .ringBusy 0 0 (t := settleIdle t) (by rw [ht])
      refine ⟨settleIdle t, hexec, h2, fun j _ => respRing_congr h3 j, h6, ?_⟩
      rw [if_neg h]
      exact ⟨h1, respRing_congr h3 r⟩
  · intro s c o r gone hstart ho hdis hown hgone
    let t := Machine.deleteResponse c r s
    have hexec : exec .deleteResponse s = took t := by simp only [exec, execDeleteResponse, hstart, t]
    by_cases hrefused : (s.respRing r).state = .absent ∨ ∃ k, Bound s r k
    · obtain ⟨a, ht, ha⟩ : ∃ a, t = finish c .ringBusy 0 a s ∧ ∀ aux : Nat,
          ((s.respRing r).state = .absent ∧ aux = 0) ∨
            ((s.respRing r).state ≠ .absent ∧ ∃ k, Bound s r k ∧ (∀ j, j < k → ¬Bound s r j) ∧ aux = k.val) → aux = a := by
        by_cases h : (s.respRing r).state = .absent
        · refine ⟨0, if_pos h, fun aux haux => ?_⟩
          rcases haux with ⟨-, haux⟩ | ⟨hn, -⟩
          · exact haux
          · exact absurd h hn
        · obtain ⟨k, hk⟩ := hrefused.resolve_left h
          obtain ⟨b, bs, hb⟩ := List.exists_cons_of_ne_nil (List.ne_nil_of_mem (mem_boundRings.2 hk))
          refine ⟨b.val, by simp only [t, Machine.deleteResponse, h, if_false, hb], fun aux haux => ?_⟩
          rcases haux with ⟨hn, -⟩ | ⟨-, j, hj, hlow, rfl⟩
          · exact absurd hn h
          · obtain ⟨js, hjs⟩ := boundRings_lowest hj hlow
            cases hb.symm.trans hjs
            rfl
      obtain ⟨h1, h2, h3, h4, h5, h6, h7⟩ := refused_spec s c .ringBusy 0 a (t := settleIdle t) (by rw [ht])
      refine ⟨settleIdle t, hexec, h2.mono (by simp), fun _ => h2.2.2 .hostPort (by simp), fun j _ => respRing_congr h3 j,
        by rw [settleIdle_store, ht]; simp, by rw [settleIdle_ready, ht]; simp, fun aux haux => ?_, fun hn hb => ?_⟩
      · cases ha aux haux
        exact ⟨h1, h2, h3, h4, h5, h6, h7⟩
      · rcases hrefused with h | ⟨k, hk⟩
        · exact absurd h hn
        · exact absurd hk (hb k)
    · obtain ⟨hpresent, hfree⟩ := not_or.1 hrefused
      have hfree : ∀ k, ¬Bound s r k := fun k hk => hfree ⟨k, hk⟩
      let u := respDeleted r s
      let v := finish c .ok 0 (s.respRing r).fill u
      have ht : t = dropItemWait v := by
        simp only [t, Machine.deleteResponse, hpresent, if_false, boundRings_eq_nil hfree, v, u, respDeleted]
      have hd := discardPosts_gone r s
      have hgone' : ∀ i, gone i = true ↔ (⟨r, i⟩ : Posted) ∈ s.resp.posts := fun i => by rw [hgone, decide_eq_true_iff]
      simp only [hgone']
      have hresp : (s.ring o.ring).resp ≠ r := fun h => hfree o.ring ⟨hdis, h⟩
      have huctx : u.ctx c = s.ctx c := (hd.ctx c).trans (if_neg hown)
      have huresp : ∀ q, s.ctx c = some q → (u.ring q.ring).resp = (s.ring q.ring).resp ∧
          (u.respRing (s.ring q.ring).resp).state = (s.respRing (s.ring q.ring).resp).state := fun q hq => by
        cases ho.symm.trans hq
        refine ⟨by rw [show u.ring o.ring = (discardPosts r s).ring o.ring from rfl, hd.ring], ?_⟩
        rw [show u.respRing _ = (discardPosts r s).respRing _ from State.setRespRing_other _ _ _ _ hresp,
          respRing_congr hd.rings]
      have hends := endsWith_finish_at huctx huresp .ok 0 (s.respRing r).fill
      obtain ⟨hsched, hfetcher, hlines, -, hstore, hrespUnit⟩ := settled_dropItemWait v (t := settleIdle t) (by rw [ht])
      have hrespRing : ∀ j, (settleIdle t).respRing j = u.respRing j := fun j =>
        (respRing_congr (by rw [hrespUnit]) j).trans (finish_respRing u c _ _ _ j)
      have honly : OnlyIn [.ringFetcher, .scheduler, .lineTable, .storeController, .responseUnit] s v :=
        (hd.only.trans ((onlyIn_setRespRing _ r _).mono (by simp))).trans ((onlyIn_finish u c _ _ _).mono (by simp))
      have hvstore : v.store = (discardPosts r s).store := by simp [v, u, respDeleted]
      refine ⟨settleIdle t, hexec, ?_, fun hw => ?_, fun j hj => ?_, ?_, ?_, fun aux haux => ?_, fun _ _ => ⟨?_, ?_, ?_,
        fun n => ?_, ?_, fun q => ?_, fun d hdc => ?_, fun k => ?_⟩⟩
      · rw [ht]
        exact onlyIn_settleIdle s ((honly.mono (by simp)).trans ((onlyIn_dropItemWait v).mono (by simp)))
      · have hvhost : v.host = s.host := by rw [← hd.host]; simp [v, u, respDeleted]
        rw [ht, dropItemWait_keeps v (.inl (by rwa [hvhost]))]
        exact (onlyIn_settleIdle s honly).2.2 .hostPort (by simp)
      · rw [hrespRing, show u.respRing j = (discardPosts r s).respRing j from State.setRespRing_other _ _ _ _ hj,
          respRing_congr hd.rings]
      · rw [hstore, hvstore, hd.store]
        split <;> rfl
      · rw [hsched, ← hd.ready]
        simp [v, u, respDeleted]
      · rcases haux with ⟨h, -⟩ | ⟨-, k, hk, -⟩
        · exact absurd h hpresent
        · exact absurd hk (hfree k)
      · exact hends.after ((flows_dropItemWait v).trans (ht ▸ flows_settleIdle _)) (ctx_congr (by rw [hsched]) c)
      · rw [hrespRing]
        exact State.setRespRing_same _ _ _
      · rw [hrespUnit, finish_posts, completionPost_congr huctx huresp, ← hd.posts]
        rfl
      · rw [line_congr hlines, finish_line]
        exact hd.line n
      · rw [hstore, hvstore, hd.store]
      · rw [hrespUnit, ← hd.slot q]
        simp [v, u, respDeleted]
      · rw [ctx_congr (s := v) (by rw [hsched]), finish_other _ _ _ _ hdc]
        exact hd.ctx d
      · have hring : (settleIdle t).ring k = v.ring k := ring_congr (by rw [hfetcher]) k
        rw [hring, finish_ring, show u.ring k = (discardPosts r s).ring k from rfl, hd.ring]

end Sys2Proof

/-! PROOF. A write to RELEASE: entries freed, or the response ring faulted, with its post queue discarded, its interrupt
sent, its notice raised and its command rings stopped (R51, R52, R148 to R154, R162). -/

namespace Sys2Proof.Machine

variable {s : State}

/-! ### The message of an interrupt -/

/-- The message a response ring's interrupt hands over (R162). -/
def messageOf (r : RespId) (s : State) : HostWrite :=
  ⟨.message r, (s.host.vectors.get r).addr, leBytes 4 (s.host.vectors.get r).data.toNat⟩

/-- The host writes and waiters after a message has been asked for (R161, R162). -/
theorem sendMessage_queue (r : RespId) (s : State) :
    ((sendMessage r s).host.writeQ, (sendMessage r s).host.waiters) =
      if s.host.msgEnable = true ∧ (s.host.vectors.get r).masked = false then
        letIn s.host.writeQ (s.host.waiters ++ [.message (messageOf r s)])
      else (s.host.writeQ, s.host.waiters) := by
  unfold sendMessage
  dsimp only
  by_cases he : s.host.msgEnable = true <;> by_cases hm : (s.host.vectors.get r).masked = true <;>
    simp [he, hm, handOver, messageOf]

/-- A masked vector takes a pending mark (R162). -/
theorem sendMessage_vectors (r j : RespId) (s : State) : (sendMessage r s).host.vectors.get j =
    if j = r ∧ s.host.msgEnable = true ∧ (s.host.vectors.get r).masked = true then
      { s.host.vectors.get j with pending := true }
    else s.host.vectors.get j := by
  unfold sendMessage
  dsimp only
  by_cases he : s.host.msgEnable = true
  · by_cases hm : (s.host.vectors.get r).masked = true
    · by_cases hj : j = r
      · subst hj; simp [he, hm]
      · simp [he, hm, hj]
    · simp [he, hm, handOver]
  · simp [he]

theorem sendMessage_hostRest (r : RespId) (s : State) :
    { (sendMessage r s).host with writeQ := s.host.writeQ, waiters := s.host.waiters, vectors := s.host.vectors } =
      s.host := by
  unfold sendMessage
  dsimp only
  split
  · rfl
  · split <;> rfl

/-- A message handed over with none waiting joins the queue while it fits (R161). -/
theorem letIn_message (q : List HostWrite) (x : HostWrite) :
    letIn q [.message x] = if q.length + 1 ≤ 64 then (q ++ [x], []) else (q, [.message x]) := by
  rw [letIn_cons]
  simp only [waiterWrites, List.length_singleton]
  rfl

/-- A message let in is in the queue or still waits (R161). -/
theorem mem_letIn {x : HostWrite} {q : List HostWrite} {xs : List Waiter} (h : x ∈ q ∨ .message x ∈ xs) :
    x ∈ (letIn q xs).1 ∨ .message x ∈ (letIn q xs).2 := by
  induction xs generalizing q with
  | nil => simpa [letIn] using h
  | cons y ys ih =>
    rw [letIn_cons]
    cases hy : waiterWrites y with
    | none => exact h
    | some ws =>
      dsimp only
      split
      · refine ih ?_
        rcases h with h | h
        · exact .inl (List.mem_append_left _ h)
        · rcases List.mem_cons.1 h with rfl | h
          · cases hy
            exact .inl (by simp)
          · exact .inr h
      · exact h

/-- A message handed over stays so when the Response Unit gives up its wait for a place (R161). -/
theorem mem_dropItemWait {x : HostWrite} (h : x ∈ s.host.writeQ ∨ .message x ∈ s.host.waiters) :
    x ∈ (dropItemWait s).host.writeQ ∨ .message x ∈ (dropItemWait s).host.waiters := by
  unfold dropItemWait
  split
  · exact mem_letIn (h.imp_right fun h => List.mem_filter.2 ⟨h, by simp⟩)
  · exact h

/-- Giving up the wait for a place changes the host write queue and its waiters only (R161). -/
theorem dropItemWait_hostRest (s : State) :
    { (dropItemWait s).host with writeQ := s.host.writeQ, waiters := s.host.waiters } = s.host := by
  unfold dropItemWait
  split <;> rfl

/-- An interrupt that is on is sent (R150, R154). -/
def interruptIf (b : Bool) (r : RespId) (s : State) : State := if b then sendInterrupt r s else s

theorem interruptIf_respRing (b : Bool) (r j : RespId) (s : State) : (interruptIf b r s).respRing j =
    if j = r ∧ b = true then { s.respRing r with unsignalled := 0, oldest := none } else s.respRing j := by
  cases b with
  | false => simp [interruptIf]
  | true =>
    have hsend : ∀ t, (sendMessage r t).respRing j = t.respRing j := fun t => respRing_congr (by simp) j
    rw [interruptIf, if_pos rfl, sendInterrupt, hsend]
    by_cases hj : j = r
    · subst hj; simp
    · simp [hj]

/-- The host's side of an interrupt (R154, R162). -/
theorem interruptIf_host (b : Bool) (r : RespId) (s : State) :
    (((interruptIf b r s).host.writeQ, (interruptIf b r s).host.waiters) =
      if b = true ∧ s.host.msgEnable = true ∧ (s.host.vectors.get r).masked = false then
        letIn s.host.writeQ (s.host.waiters ++ [.message (messageOf r s)])
      else (s.host.writeQ, s.host.waiters)) ∧
    (∀ j, (interruptIf b r s).host.vectors.get j =
      if j = r ∧ b = true ∧ s.host.msgEnable = true ∧ (s.host.vectors.get r).masked = true then
        { s.host.vectors.get j with pending := true }
      else s.host.vectors.get j) ∧
    { (interruptIf b r s).host with writeQ := s.host.writeQ, waiters := s.host.waiters, vectors := s.host.vectors } =
      s.host := by
  cases b with
  | false => simp [interruptIf]
  | true =>
    let u := s.setRespRing r { s.respRing r with unsignalled := 0, oldest := none }
    have h : interruptIf true r s = sendMessage r u := rfl
    simp only [h, true_and]
    exact ⟨sendMessage_queue r u, fun j => sendMessage_vectors r j u, sendMessage_hostRest r u⟩

/-- An interrupt touches its ring's unsignalled count and the host's queue and vectors only (R154). -/
theorem onlyIn_interruptIf (b : Bool) (r : RespId) (s : State) : OnlyIn [.hostPort, .responseUnit] s (interruptIf b r s) := by
  cases b
  · exact onlyIn_refl s _
  · exact onlyIn_sendInterrupt s r

theorem interruptIf_resp (b : Bool) (r : RespId) (s : State) : (interruptIf b r s).resp.posts = s.resp.posts ∧
    (interruptIf b r s).resp.faultSlots = s.resp.faultSlots := by
  cases b <;> simp [interruptIf]

/-! ### The notice of a fault and the rings it stops -/

/-- Command rings stopped, one after the other (R51, R151). -/
def stopAll (ks : List RingId) (why : StopReason) (s : State) : State := ks.foldl (fun t k => stopRing k why t) s

/-- A ring that a stop acts on (R51). -/
def mayStop (x : CmdRing) : Bool := decide (x.state = .running ∨ x.state = .paused)

theorem stopRing_cases (why : StopReason) (k j : RingId) (s : State) : (stopRing k why s).ring j =
    if j = k ∧ mayStop (s.ring k) = true then
      { s.ring k with
        state := .stopped
        stop := some why
        notice :=
          if (s.ring k).notice.isSome = true ∨ (s.respRing 0).state = .active then some (why, (s.ring k).take)
          else none }
    else s.ring j := by
  by_cases hj : j = k
  · subst hj
    by_cases h : (s.ring j).state = .running ∨ (s.ring j).state = .paused
    · have hm : mayStop (s.ring j) = true := decide_eq_true h
      rw [stopRing_ring_same s j why h]
      simp only [hm, and_self, if_true]
    · rw [stopRing_other s why (fun e => h (.inl e)) fun e => h (.inr e), if_neg fun e => h (of_decide_eq_true e.2)]
  · rw [stopRing_ring_other s why hj, if_neg fun e => hj e.1]

theorem stopAll_respRing (ks : List RingId) (why : StopReason) (s : State) (r : RespId) :
    (stopAll ks why s).respRing r = s.respRing r :=
  foldl_keeps (fun t => t.respRing r) _ (fun _ _ => respRing_congr (by simp) r) ks s

theorem stopAll_ring {ks : List RingId} (hnd : ks.Nodup) (why : StopReason) (s : State) (k : RingId) :
    (stopAll ks why s).ring k =
      if k ∈ ks ∧ mayStop (s.ring k) = true then
        { s.ring k with
          state := .stopped
          stop := some why
          notice :=
            if (s.ring k).notice.isSome = true ∨ (s.respRing 0).state = .active then some (why, (s.ring k).take)
            else none }
      else s.ring k := by
  induction ks generalizing s with
  | nil => simp [stopAll]
  | cons j js ih =>
    obtain ⟨hj, hjs⟩ := List.nodup_cons.1 hnd
    rw [show stopAll (j :: js) why s = stopAll js why (stopRing j why s) from rfl, ih hjs]
    have hresp : (stopRing j why s).respRing 0 = s.respRing 0 := respRing_congr (by simp) 0
    by_cases hk : k = j
    · subst hk
      rw [if_neg fun h => hj h.1, stopRing_cases]
      simp
    · rw [stopRing_ring_other s why hk, hresp]
      simp [hk]

theorem stopAll_posts {ks : List RingId} (hnd : ks.Nodup) (why : StopReason) (s : State) :
    (stopAll ks why s).resp.posts = s.resp.posts ++
      (ks.filter fun k => decide ((s.respRing 0).state = .active) && mayStop (s.ring k) && (s.ring k).notice.isNone).map
        fun k => ⟨0, .ringStopped k⟩ := by
  induction ks generalizing s with
  | nil => simp [stopAll]
  | cons j js ih =>
    obtain ⟨hj, hjs⟩ := List.nodup_cons.1 hnd
    have hresp : (stopRing j why s).respRing 0 = s.respRing 0 := respRing_congr (by simp) 0
    have hfilter : (js.filter fun k => decide (((stopRing j why s).respRing 0).state = .active) &&
        mayStop ((stopRing j why s).ring k) && ((stopRing j why s).ring k).notice.isNone) =
        js.filter fun k => decide ((s.respRing 0).state = .active) && mayStop (s.ring k) && (s.ring k).notice.isNone :=
      List.filter_congr fun k hk => by rw [hresp, stopRing_ring_other s why fun h : k = j => hj (h ▸ hk)]
    rw [show stopAll (j :: js) why s = stopAll js why (stopRing j why s) from rfl, ih hjs, hfilter]
    by_cases h : (s.ring j).state = .running ∨ (s.ring j).state = .paused
    · have hm : mayStop (s.ring j) = true := decide_eq_true h
      rw [stopRing_posts s j why h]
      by_cases hn : (s.ring j).notice = none ∧ (s.respRing 0).state = .active
      · rw [if_pos hn, List.filter_cons_of_pos (by simp [hm, hn]), List.append_assoc]
        rfl
      · have hnot : (decide ((s.respRing 0).state = .active) && mayStop (s.ring j) && (s.ring j).notice.isNone) = false := by
          by_cases ha : (s.respRing 0).state = .active
          · have : (s.ring j).notice.isNone = false := by
              simpa [Option.isSome_iff_ne_none, ha] using hn
            rw [this, Bool.and_false]
          · simp [ha]
        rw [if_neg hn, List.filter_cons_of_neg (by rw [hnot]; simp), List.append_nil]
    · have hm : mayStop (s.ring j) = false := decide_eq_false h
      rw [stopRing_other s why (fun e => h (.inl e)) fun e => h (.inr e), List.filter_cons_of_neg (by simp [hm])]

theorem onlyIn_stopAll (ks : List RingId) (why : StopReason) (s : State) :
    OnlyIn [.ringFetcher, .responseUnit] s (stopAll ks why s) := by
  induction ks generalizing s with
  | nil => exact onlyIn_refl s _
  | cons k ks ih => exact (onlyIn_stopRing s k why).trans (ih _)

theorem stopAll_host (ks : List RingId) (why : StopReason) (s : State) : (stopAll ks why s).host = s.host ∧
    (stopAll ks why s).link = s.link :=
  ⟨foldl_keeps State.host _ (fun _ _ => by simp) ks s, foldl_keeps State.link _ (fun _ _ => by simp) ks s⟩

theorem stopAll_slots (ks : List RingId) (why : StopReason) (s : State) :
    (stopAll ks why s).resp.faultSlots = s.resp.faultSlots :=
  foldl_keeps (fun t => t.resp.faultSlots) _ (fun _ _ => by simp) ks s

/-- The RESPONSE_FAULTED notice of rings 1 to 3 (R152). -/
def raiseIf (r : RespId) (info : FaultInfo) (s : State) : State := if r = 0 then s else raiseRespFaulted r info s

theorem raiseIf_slot (r q : RespId) (info : FaultInfo) (s : State) : (raiseIf r info s).resp.faultSlots.get q =
    if q = r ∧ r ≠ 0 ∧ ((s.resp.faultSlots.get r).isSome = true ∨ (s.respRing 0).state = .active) then some info
    else s.resp.faultSlots.get q := by
  unfold raiseIf raiseRespFaulted
  by_cases hr : r = 0
  · simp [hr]
  · by_cases hq : q = r
    · subst hq
      by_cases h1 : (s.resp.faultSlots.get q).isSome = true <;> by_cases h2 : (s.respRing 0).state = .active <;>
        simp [hr, h1, h2, State.setFaultSlot]
    · by_cases h1 : (s.resp.faultSlots.get r).isSome = true <;> by_cases h2 : (s.respRing 0).state = .active <;>
        simp [hr, hq, h1, h2, State.setFaultSlot]

theorem raiseIf_posts (r : RespId) (info : FaultInfo) (s : State) : (raiseIf r info s).resp.posts = s.resp.posts ++
    if r ≠ 0 ∧ (s.respRing 0).state = .active ∧ s.resp.faultSlots.get r = none then [⟨0, .respFaulted r⟩] else [] := by
  unfold raiseIf raiseRespFaulted
  by_cases hr : r = 0
  · simp [hr]
  · cases h1 : s.resp.faultSlots.get r with
    | some y => simp [hr, State.setFaultSlot]
    | none =>
      by_cases h2 : (s.respRing 0).state = .active
      · simp [hr, h2, post_posts]
      · simp [hr, h2]

theorem raiseIf_host (r : RespId) (info : FaultInfo) (s : State) : (raiseIf r info s).host = s.host ∧
    (raiseIf r info s).link = s.link := by
  unfold raiseIf
  split <;> simp

theorem raiseIf_frame (r : RespId) (info : FaultInfo) (s : State) : OnlyIn [.responseUnit] s (raiseIf r info s) ∧
    (raiseIf r info s).resp.rings = s.resp.rings := by
  unfold raiseIf
  split
  · exact ⟨onlyIn_refl s _, rfl⟩
  · exact ⟨⟨by simp, by simp, fun b hb => by cases b <;> simp_all [Same]⟩, by simp⟩

/-! ### A response ring faults -/

/-- A response ring marked as faulted (R149). -/
def faultMarked (r : RespId) (info : FaultInfo) (s : State) : State :=
  s.setRespRing r { s.respRing r with state := .faulted, fault := if r = 0 then none else some info }

/-- The state in which a response ring's fault has discarded its post queue and sent its interrupt (R149, R150). -/
def faultSent (r : RespId) (info : FaultInfo) (s : State) : State :=
  interruptIf (s.respRing r).intOn r (discardPosts r (faultMarked r info s))

theorem faultResp_eq (r : RespId) (info : FaultInfo) (s : State) : faultResp r info s =
    dropItemWait (stopAll (boundRings r (raiseIf r info (faultSent r info s))) .responseFault
      (raiseIf r info (faultSent r info s))) := rfl

/-- The fault's own parts leave all but the host's queue and vectors and the parts it names as they are. -/
theorem onlyIn_faultResp (r : RespId) (info : FaultInfo) (s : State) :
    OnlyIn [.hostPort, .ringFetcher, .scheduler, .lineTable, .storeController, .responseUnit] s (faultResp r info s) := by
  have h1 := onlyIn_setRespRing s r { s.respRing r with state := .faulted, fault := if r = 0 then none else some info }
  have h2 := (discardPosts_gone r (faultMarked r info s)).only
  have h3 := onlyIn_interruptIf (s.respRing r).intOn r (discardPosts r (faultMarked r info s))
  have h4 := (raiseIf_frame r info (faultSent r info s)).1
  rw [faultResp_eq]
  exact (((((h1.mono (by simp)).trans (h2.mono (by simp))).trans (h3.mono (by simp))).trans (h4.mono (by simp))).trans
    ((onlyIn_stopAll _ _ _).mono (by simp))).trans ((onlyIn_dropItemWait _).mono (by simp))

/-- The response rings after the queue of one is discarded and its interrupt sent (R149, R150). -/
theorem faultSent_respRing (r j : RespId) (info : FaultInfo) (s : State) : (faultSent r info s).respRing j =
    if j = r then
      { s.respRing r with
        state := .faulted
        fault := if r = 0 then none else some info
        unsignalled := if (s.respRing r).intOn = true then 0 else (s.respRing r).unsignalled
        oldest := if (s.respRing r).intOn = true then none else (s.respRing r).oldest }
    else s.respRing j := by
  have hd : ∀ j, (discardPosts r (faultMarked r info s)).respRing j = (faultMarked r info s).respRing j :=
    respRing_congr (discardPosts_gone r (faultMarked r info s)).rings
  rw [faultSent, interruptIf_respRing, hd, hd]
  by_cases hj : j = r
  · subst hj
    by_cases hi : (s.respRing j).intOn = true <;> simp [faultMarked, hi]
  · simp [faultMarked, hj]

/-- Settles O17: the fault as the composition of its parts, each by its own lemma. -/
theorem releaseWrite : Obligations.ReleaseWrite := by
  intro s r v hup
  let t := settleIdle (release r v.toNat s)
  have hexec : exec (.releaseWrite r v) s = .next t := by
    simp only [exec, execReleaseWrite, hup, if_true]
    rfl
  refine ⟨t, hexec, ?_⟩
  by_cases hactive : (s.respRing r).state = .active
  swap
  · have ht : t = settleIdle s := by simp only [t, release, hactive, if_false]
    have honly : OnlyIn [] s t := ht ▸ onlyIn_settleIdle s (onlyIn_refl s _)
    rw [if_neg hactive]
    refine ⟨honly.2.1, honly.1, ?_, honly.2.2 .movers (by simp), honly.2.2 .parkTimer (by simp),
      (honly.2.2 .hostPort (by simp)).2, fun j _ => ?_, honly⟩
    · rw [ht, settleIdle_store]
    · rw [ht, settleIdle_respRing]
  rw [if_pos hactive]
  let n := (v.toNat + (s.respRing r).size - (s.respRing r).release) % (s.respRing r).size
  by_cases hok : v.toNat < (s.respRing r).size ∧ n ≤ (s.respRing r).unreleased
  · have ht : t = settleIdle (s.setRespRing r
        { s.respRing r with release := v.toNat, unreleased := (s.respRing r).unreleased - n }) := by
      simp only [t, release, hactive, if_true, Nat.not_le.2 hok.1, if_false, n, Nat.not_lt.2 hok.2]
    have honly : OnlyIn [.responseUnit] s t := ht ▸ onlyIn_settleIdle s (onlyIn_setRespRing s r _)
    rw [if_pos hok]
    refine ⟨honly.2.1, honly.1, ?_, honly.2.2 .movers (by simp), honly.2.2 .parkTimer (by simp),
      (honly.2.2 .hostPort (by simp)).2, fun j hj => ?_, honly, ?_, ?_⟩
    · rw [ht, settleIdle_store]; rfl
    · rw [ht, settleIdle_respRing, State.setRespRing_other _ _ _ _ hj]
    · rw [ht]; simp
    · rw [ht, settleIdle_respRing, State.setRespRing_same]
  rw [if_neg hok]
  let x := s.respRing r
  let info : FaultInfo := ⟨if x.size ≤ v.toNat then 2 else 1, v.toNat, x.unreleased⟩
  have ht : t = settleIdle (faultResp r info s) := by
    by_cases hsize : (s.respRing r).size ≤ v.toNat
    · simp only [t, release, hactive, if_true, hsize, info, x]
    · have hmore : (s.respRing r).unreleased < n := Nat.not_le.1 fun h => hok ⟨Nat.not_le.1 hsize, h⟩
      simp only [t, release, hactive, if_true, hsize, if_false, hmore, n, info, x]
  let s1 := faultMarked r info s
  let s2 := discardPosts r s1
  let s3 := faultSent r info s
  let s4 := raiseIf r info s3
  let s5 := stopAll (boundRings r s4) .responseFault s4
  have hd : PostsGone r s1 s2 := discardPosts_gone r s1
  have h32 := onlyIn_interruptIf x.intOn r s2
  obtain ⟨h43, h43rings⟩ := raiseIf_frame r info s3
  have h54 := onlyIn_stopAll (boundRings r s4) .responseFault s4
  have honly : OnlyIn [.hostPort, .ringFetcher, .scheduler, .lineTable, .storeController, .responseUnit] s t :=
    ht ▸ onlyIn_settleIdle s (onlyIn_faultResp r info s)
  obtain ⟨hsched, hfetcher, hlines, -, hstore, hresp⟩ := settled_dropItemWait s5 (t := t) ht
  have h52 : OnlyIn [.hostPort, .ringFetcher, .responseUnit] s2 s5 :=
    ((h32.mono (by simp)).trans (h43.mono (by simp))).trans (h54.mono (by simp))
  have hrespRing : ∀ j, t.respRing j = s3.respRing j := fun j => by
    rw [respRing_congr (s := s5) (by rw [hresp]), stopAll_respRing, respRing_congr h43rings]
  have htstore : t.store = s2.store := hstore.trans (h52.2.2 .storeController (by simp))
  have htsched : t.sched = s2.sched := hsched.trans (h52.2.2 .scheduler (by simp))
  have htlines : t.lines = s2.lines := hlines.trans (h52.2.2 .lineTable (by simp))
  refine ⟨honly.2.1, honly.1, ?_, honly.2.2 .movers (by simp), honly.2.2 .parkTimer (by simp), ?_, fun j hj => ?_, ?_⟩
  · rw [htstore, hd.store]
    split <;> rfl
  · rw [ht, faultResp_eq, show ∀ z, (settleIdle z).link = z.link by simp, (dropItemWait_frame s5).2.2.1, (stopAll_host _ _ s4).2, (raiseIf_host r info s3).2]
    exact (by cases x.intOn <;> simp [interruptIf] : (interruptIf x.intOn r s2).link = s2.link).trans
      (hd.only.2.2 .hostPort (by simp)).2
  · rw [hrespRing, faultSent_respRing, if_neg hj]
  intro info' x' gone slot notice stops raises msg hx hinfo hgone hslot hnotice hstops hraises hmsg
  subst hx
  subst hinfo
  have hgone' : ∀ i, gone i = true ↔ (⟨r, i⟩ : Posted) ∈ s.resp.posts := fun i => by rw [hgone, decide_eq_true_iff]
  simp only [hgone'] at hslot hnotice ⊢
  have hslot' : s3.resp.faultSlots.get r = slot := by
    rw [hslot, show s3.resp.faultSlots = s2.resp.faultSlots from (interruptIf_resp _ r s2).2, hd.slot]
    rfl
  have hactive4 : (s4.respRing 0).state = .active ↔ raises = true := by
    rw [hraises, respRing_congr h43rings, faultSent_respRing]
    by_cases hr : r = 0
    · subst hr; simp
    · simp [hr, Ne.symm hr]
  have hring4 : ∀ k, s4.ring k = s2.ring k := fun k => by
    have e3 : s3.fetcher = s2.fetcher := h32.2.2 .ringFetcher (by simp)
    have e4 : s4.fetcher = s3.fetcher := h43.2.2 .ringFetcher (by simp)
    exact ring_congr (by rw [e4, e3]) k
  have hring2 : ∀ k, s2.ring k = { s.ring k with notice := notice k, window := (s2.ring k).window } := fun k => by
    rw [hd.ring, hnotice]
    rfl
  have hstops' : ∀ k, (k ∈ boundRings r s4 ∧ mayStop (s4.ring k) = true) ↔ stops k = true := fun k => by
    rw [hstops, mem_boundRings, Bound, hring4, hring2, mayStop, decide_eq_true_iff]
    constructor
    · rintro ⟨⟨-, h1⟩, h2⟩
      exact ⟨h1, h2⟩
    · rintro ⟨h1, h2⟩
      refine ⟨⟨?_, h1⟩, h2⟩
      rcases h2 with h2 | h2 <;> simp [h2]
  have hnd : (boundRings r s4).Nodup := (boundRings_pairwise r s4).imp fun h => ne_of_lt h
  have h5host : s5.host = s3.host := (stopAll_host _ _ s4).1.trans (raiseIf_host r info s3).1
  have h2host : s2.host = s.host := hd.host
  obtain ⟨hqueue, hvectors, hrest⟩ := interruptIf_host x.intOn r s2
  rw [show messageOf r s2 = msg by rw [hmsg, messageOf, h2host]] at hqueue
  simp only [h2host, show interruptIf x.intOn r s2 = s3 from rfl, ← h5host] at hqueue hvectors hrest
  have hdrop := dropItemWait_hostRest s5
  have htfields : t.host.writeQ = (dropItemWait s5).host.writeQ ∧ t.host.waiters = (dropItemWait s5).host.waiters ∧
      t.host.vectors = (dropItemWait s5).host.vectors := by
    rw [ht]
    exact ⟨by simp [faultResp_eq, s5, s4, s3], by simp [faultResp_eq, s5, s4, s3], by simp [faultResp_eq, s5, s4, s3]⟩
  have hnotice4 : ∀ k, (s4.ring k).notice = notice k := fun k => by rw [hring4, hring2]
  have htring : ∀ k, t.ring k = s5.ring k := ring_congr (by rw [hfetcher])
  refine ⟨?_, ?_, fun c => ?_, ?_, fun n => ?_, ?_, fun q => ?_, fun k => ?_, fun k hk => ?_, ?_, fun j => ?_, ?_⟩
  · rw [hrespRing, faultSent_respRing, if_pos rfl]
  · have h3posts : s3.resp.posts = s.resp.posts.filter fun y => decide (y.ring ≠ r) :=
      (interruptIf_resp _ r s2).1.trans hd.posts
    rw [hresp, stopAll_posts hnd, raiseIf_posts, h3posts, hslot']
    congr 1
    · have hraises' : (r ≠ 0 ∧ (s3.respRing 0).state = .active ∧ slot = none) ↔ (raises = true ∧ slot = none) := by
        rw [← hactive4, respRing_congr h43rings, ← and_assoc]
        refine and_congr_left fun _ => and_iff_right_of_imp fun h => ?_
        exact (hraises.1 (hactive4.1 (by rwa [respRing_congr h43rings]))).1
      simp only [hraises']
    · rw [show boundRings r s4 = (List.finRange 16).filter fun k => decide (k ∈ boundRings r s4) from ?_, List.filter_filter]
      · refine congrArg _ (List.filter_congr fun k _ => ?_)
        have h := hstops' k
        rw [Bool.eq_iff_iff]
        simp only [Bool.and_eq_true, decide_eq_true_eq, hactive4, hnotice4, ← h]
        exact ⟨fun ⟨⟨⟨ha, hm⟩, hn⟩, hb⟩ => ⟨⟨ha, hb, hm⟩, hn⟩, fun ⟨⟨ha, hb, hm⟩, hn⟩ => ⟨⟨⟨ha, hm⟩, hn⟩, hb⟩⟩
      · exact List.filter_congr fun k _ => by
          rw [Bool.eq_iff_iff, decide_eq_true_iff, mem_boundRings, Bound]
          simp [State.ring]
  · rw [ctx_congr (s := s2) (by rw [htsched]), hd.ctx]
    rfl
  · rw [htsched, hd.ready]
    rfl
  · rw [line_congr htlines, hd.line]
    rfl
  · rw [htstore, hd.store]
    rfl
  · have hslotq : s3.resp.faultSlots.get q =
        if (⟨r, .respFaulted q⟩ : Posted) ∈ s.resp.posts then none else s.resp.faultSlots.get q := by
      rw [show s3.resp.faultSlots = s2.resp.faultSlots from (interruptIf_resp _ r s2).2, hd.slot]
      rfl
    rw [hresp, stopAll_slots, raiseIf_slot, hslot', hslotq, ← respRing_congr h43rings]
    simp only [s4] at hactive4
    simp only [hactive4]
    rfl
  · have hw : (t.ring k).window = (s2.ring k).window := by
      rw [htring, stopAll_ring hnd, ← hring4]
      split <;> rfl
    rw [hw, htring, stopAll_ring hnd]
    by_cases hk : stops k = true
    · rw [if_pos ((hstops' k).2 hk), if_pos hk]
      simp only [hnotice4, hactive4]
      rw [hring4, hring2]
    · rw [if_neg (mt (hstops' k).1 hk), if_neg hk, hring4, hring2]
  · have hw : (t.ring k).window = (s2.ring k).window := by
      rw [htring, stopAll_ring hnd, ← hring4]
      split <;> rfl
    rw [hw]
    exact (hd.window k hk).2
  · have hdrop' := congrArg (fun h : HostPort => { h with
        quiesce := s.host.quiesce
        writeQ := s.host.writeQ
        waiters := s.host.waiters
        vectors := s.host.vectors }) hdrop
    have hrest' := congrArg (fun h : HostPort => { h with quiesce := s.host.quiesce }) hrest
    rw [ht, settleIdle_host]
    exact hdrop'.trans hrest'
  · rw [htfields.2.2, (congrArg HostPort.vectors hdrop :), hvectors]
  · rw [htfields.1, htfields.2.1]
    by_cases hsend : x.intOn = true ∧ s.host.msgEnable = true ∧ (s.host.vectors.get r).masked = false
    · rw [if_pos hsend] at hqueue ⊢
      obtain ⟨hq, hw⟩ := Prod.mk.inj hqueue
      refine ⟨mem_dropItemWait ?_, fun hnone => ?_⟩
      · rw [hq, hw]
        exact mem_letIn (.inr (by simp))
      · rw [hnone, List.nil_append, letIn_message] at hw hq
        rw [dropItemWait_keeps s5 (.inl ?_), hq, hw]
        rw [hw]
        split <;> simp
    · rw [if_neg hsend] at hqueue ⊢
      obtain ⟨hq, hw⟩ := Prod.mk.inj hqueue
      intro hitem
      rw [dropItemWait_keeps s5 (.inl (by rwa [hw]))]
      exact ⟨hq, hw⟩

end Sys2Proof.Machine

/-! PROOF. The writing of an item and the moderation time (R146, R147, R153, R154, R161, R162). -/

namespace Sys2Proof.Machine

variable {s : State}

/-! ### The host write queue -/

/-- What is left waiting was waiting (R161). -/
theorem letIn_sublist (q : List HostWrite) (xs : List Waiter) : (letIn q xs).2.Sublist xs := by
  induction xs generalizing q with
  | nil => exact List.Sublist.refl _
  | cons x xs ih =>
    rw [letIn_cons]
    split
    · exact List.Sublist.refl _
    · split
      · exact (ih _).cons x
      · exact List.Sublist.refl _

/-! ### The item written next -/

/-- The item that joined first of those that can be written (R147). -/
theorem nextItem_eq {x : Posted} {before after : List Posted} (hposts : s.resp.posts = before ++ x :: after)
    (hbefore : ∀ y ∈ before, canWrite s y.ring = false) (hx : canWrite s x.ring = true) : nextItem s = some x :=
  List.find?_eq_some_iff_append.2 ⟨hx, before, after, hposts, fun y hy => by simp [hbefore y hy]⟩

theorem erase_written {x : Posted} {before after : List Posted} (hbefore : ∀ y ∈ before, canWrite s y.ring = false)
    (hx : canWrite s x.ring = true) : (before ++ x :: after).erase x = before ++ after := by
  have hnot : x ∉ before := fun h => by rw [hbefore x h] at hx; cases hx
  rw [List.erase_append_right _ hnot, List.erase_cons_head]

theorem canWrite_iff (r : RespId) : canWrite s r = true ↔
    (s.respRing r).state = .active ∧ (s.respRing r).unreleased < (s.respRing r).size := by
  simp [canWrite]

/-- Every item counts but a completion whose record carried NO_IRQ (R153). -/
theorem countsItem_iff (i : PostItem) : countsItem s i = true ↔
    ∀ c o, i = .completion c → s.ctx c = some o → o.noIrq = false := by
  cases i with
  | completion c =>
    simp only [countsItem, PostItem.completion.injEq]
    cases h : s.ctx c with
    | none =>
      refine iff_of_true rfl fun d o hd ho => ?_
      subst hd
      cases h.symm.trans ho
    | some o =>
      simp only [Bool.not_eq_true']
      exact ⟨fun h' d q hd hq => by subst hd; cases h.symm.trans hq; exact h', fun h' => h' c o rfl h⟩
  | lap n => simp [countsItem]
  | ringStopped k => simp [countsItem]
  | storeFault => simp [countsItem]
  | respFaulted r => simp [countsItem]

/-! ### The unsignalled count -/

/-- A counted item raises the unsignalled count; at the moderation count the interrupt is sent (R146, R153). -/
theorem countItem_eq (r : RespId) (counts : Bool) (s : State) : countItem r counts s =
    interruptIf ((s.respRing r).intOn && counts && decide ((s.respRing r).unsignalled + 1 = (s.respRing r).modCount)) r
      (if (s.respRing r).intOn = true ∧ counts = true then
        s.setRespRing r { s.respRing r with
          unsignalled := (s.respRing r).unsignalled + 1
          oldest := if (s.respRing r).unsignalled + 1 = 1 then some s.now else (s.respRing r).oldest }
      else s) := by
  unfold countItem interruptIf
  dsimp only
  by_cases h : (s.respRing r).intOn = true ∧ counts = true
  · simp [h]
  · have : ((s.respRing r).intOn && counts) = false := by
      rw [← Bool.not_eq_true, Bool.and_eq_true]
      exact h
    simp [h, this]

/-! ### Settling -/

/-- An item written: its place taken, its slot or context freed, the fill index moved (R146). -/
def itemPlaced (x : Posted) (s : State) : State :=
  let s1 := takePlace .item [itemWriteOf s x] s
  let s2 := discardItem (s1.setPosts (s1.resp.posts.erase x)) x.item
  s2.setRespRing x.ring (advanceFill (s2.respRing x.ring))

theorem writeItem_eq (x : Posted) (s : State) :
    writeItem x s = countItem x.ring (countsItem s x.item) (itemPlaced x s) := rfl

/-- What the writing of an item does to the post queues, the response rings and the host's queue (R146, R161). -/
theorem itemPlaced_spec (x : Posted) (s : State) :
    (itemPlaced x s).resp.posts = s.resp.posts.erase x ∧
    (∀ j, (itemPlaced x s).respRing j = if j = x.ring then advanceFill (s.respRing x.ring) else s.respRing j) ∧
    (itemPlaced x s).host = (takePlace .item [itemWriteOf s x] s).host ∧
    (itemPlaced x s).pending = s.pending ∧ (itemPlaced x s).now = s.now ∧ (itemPlaced x s).link = s.link ∧
    (itemPlaced x s).parkTimer = s.parkTimer ∧ (itemPlaced x s).store.cells = s.store.cells := by
  let s1 := takePlace .item [itemWriteOf s x] s
  let u := s1.setPosts (s1.resp.posts.erase x)
  have hd := discardItem_discarded u x.item
  obtain ⟨h1, h2, h3, h4, h5, -, h7, h8, -⟩ := hd.frame
  refine ⟨h8, fun j => ?_, h3, h1, h2, h4, h5, ?_⟩
  · have hrings : ∀ j, (discardItem u x.item).respRing j = s.respRing j := respRing_congr h7
    unfold itemPlaced
    dsimp only
    by_cases hj : j = x.ring
    · subst hj
      rw [State.setRespRing_same, if_pos rfl, hrings]
    · rw [State.setRespRing_other _ _ _ _ hj, if_neg hj, hrings]
  · rw [show (itemPlaced x s).store = (discardItem u x.item).store from rfl, hd.store]
    split <;> rfl

/-- Settles O54: the item's place, its count and its interrupt, each by its own lemma. -/
theorem itemWrite : Obligations.ItemWrite := by
  refine ⟨?_, ?_, ?_⟩
  · intro s x before after r counts interrupt v item message hposts hcounts hbefore hr hactive hroom hplace hlen
      hinterrupt hv hitem hmessage
    have hx : canWrite s x.ring = true := (canWrite_iff x.ring).2 ⟨hr ▸ hactive, hr ▸ hroom⟩
    have hbefore' : ∀ y ∈ before, canWrite s y.ring = false := fun y hy =>
      Bool.eq_false_iff.2 fun h => hbefore y hy ((canWrite_iff y.ring).1 h)
    have hhas : hasPlace .item 1 s = true := by
      simp only [hasPlace, Bool.and_eq_true, Config.writeQueue]
      refine ⟨decide_eq_true hlen, ?_⟩
      rcases hplace with h | h <;> simp [h]
    let u := itemPlaced x s
    let w := writeItem x s
    let t := settleIdle (pumpAll w)
    have hexec : exec .itemWrite s = .next t := by
      simp only [exec, execItemWrite, nextItem_eq hposts hbefore' hx, hhas, if_true]
      rfl
    have hcounts' : countsItem s x.item = counts := by rw [Bool.eq_iff_iff, countsItem_iff, hcounts]
    obtain ⟨huposts, hurings, huhost, hupend, hunow, hulink, hupark, hucells⟩ := itemPlaced_spec x s
    rw [hposts, erase_written hbefore' hx] at huposts
    -- The state in which the item is counted, its interrupt not yet sent.
    let c := if r.intOn = true ∧ counts = true then
        u.setRespRing x.ring { u.respRing x.ring with
          unsignalled := r.unsignalled + 1
          oldest := if r.unsignalled + 1 = 1 then some s.now else r.oldest } else u
    have hur : u.respRing x.ring = advanceFill r := by rw [hurings, if_pos rfl, hr]
    have hw : w = interruptIf interrupt x.ring c := by
      have hi : (r.intOn && counts && decide (r.unsignalled + 1 = r.modCount)) = interrupt := by
        rw [Bool.eq_iff_iff, hinterrupt]
        simp [and_assoc]
      simp only [w, writeItem_eq, hcounts', countItem_eq, c, ← hi, u] at hur ⊢
      rw [hur, hunow]
      rfl
    have hchost : c.host = u.host := by simp only [c]; split <;> rfl
    have hcposts : c.resp.posts = u.resp.posts := by simp only [c]; split <;> rfl
    have hcu : OnlyIn [.responseUnit] u c := by
      simp only [c]
      split
      · exact onlyIn_setRespRing u _ _
      · exact onlyIn_refl u _
    have hwu : OnlyIn [.hostPort, .responseUnit] u w := hw ▸ (hcu.mono (by simp)).trans (onlyIn_interruptIf _ _ c)
    have hwlink : w.link = s.link := by
      rw [hw, ← hulink, show u.link = c.link from ((hcu.2.2 .hostPort (by simp)).2).symm]
      cases interrupt <;> simp [interruptIf]
    obtain ⟨hqueue, hvectors, -⟩ := interruptIf_host interrupt x.ring c
    rw [← hw] at hqueue hvectors
    -- The queue and the waiters once the item has its place.
    let p := letIn (s.host.writeQ ++ [item]) (s.host.waiters.filter (· ≠ .item))
    have hitem' : itemWriteOf s x = item := by rw [hitem, itemWriteOf, hr]
    have hchost' : c.host = { s.host with writeQ := p.1, waiters := p.2 } := by
      rw [hchost, huhost, hitem']
      rfl
    have hmsg : messageOf x.ring c = message := by rw [messageOf, hchost', hmessage, hv]
    rw [hmsg, hchost'] at hqueue
    rw [hchost'] at hvectors
    simp only [← hv] at hqueue hvectors
    have hprefix : s.host.writeQ ++ [item] <+: w.host.writeQ := by
      have hp : s.host.writeQ ++ [item] <+: p.1 := letIn_prefix _ _
      split at hqueue
      · rw [(Prod.mk.inj hqueue).1]
        exact hp.trans (letIn_prefix _ _)
      · rw [(Prod.mk.inj hqueue).1]
        exact hp
    have hwaiters : Waiter.item ∉ w.host.waiters := by
      have hp : Waiter.item ∉ p.2 := fun h => by simpa using List.mem_filter.1 ((letIn_sublist _ _).subset h)
      split at hqueue
      · rw [(Prod.mk.inj hqueue).2]
        intro h
        rcases List.mem_append.1 ((letIn_sublist _ _).subset h) with h | h
        · exact hp h
        · simp at h
      · rw [(Prod.mk.inj hqueue).2]
        exact hp
    have htsched : t.sched = u.sched := by
      rw [show t.sched = w.sched by simp [t]]
      exact hwu.2.2 .scheduler (by simp)
    have htlines : t.lines = u.lines := by
      rw [show t.lines = w.lines by simp [t]]
      exact hwu.2.2 .lineTable (by simp)
    have htfetcher : t.fetcher = u.fetcher := by
      rw [show t.fetcher = w.fetcher by simp [t]]
      exact hwu.2.2 .ringFetcher (by simp)
    have hwstore : w.store = u.store := hwu.2.2 .storeController (by simp)
    have htresp : t.resp = w.resp := by simp [t]
    have hwresp := interruptIf_resp interrupt x.ring c
    rw [← hw] at hwresp
    have hcslots : c.resp.faultSlots = u.resp.faultSlots := by simp only [c]; split <;> rfl
    have htrings : ∀ j, t.respRing j = if j = x.ring ∧ interrupt = true then
        { c.respRing x.ring with unsignalled := 0, oldest := none } else c.respRing j := fun j => by
      rw [← interruptIf_respRing, ← hw, respRing_congr (s := w) (by rw [htresp])]
    have hcring : ∀ j, c.respRing j = if j = x.ring then
        if r.intOn = true ∧ counts = true then
          { advanceFill r with
            unsignalled := r.unsignalled + 1
            oldest := if r.unsignalled + 1 = 1 then some s.now else r.oldest }
        else advanceFill r
        else s.respRing j := fun j => by
      simp only [c, hur]
      by_cases hj : j = x.ring
      · subst hj
        split
        · simp
        · simp [hur]
      · split
        · simp [hj, hurings, u]
        · simp [hj, hurings, u]
    refine ⟨t, hexec, ?_, ?_, ?_, ?_, ?_, ?_, ?_, ?_, fun hnone => ?_, fun j => ?_, fun j hj => ?_, ?_, ?_⟩
    · rw [show t.pending = w.pending by simp [t], hwu.1, hupend]
    · rw [show t.now = w.now by simp [t], hwu.2.1, hunow]
    · rw [show t.store.cells = w.store.cells by simp [t], hwstore, hucells]
    · rw [show t.parkTimer = w.parkTimer by simp [t], ← hupark]
      exact hwu.2.2 .parkTimer (by simp)
    · rw [htresp, hwresp.1, hcposts, huposts]
    · obtain ⟨reads, hreads⟩ := pumpAll_link w
      exact ⟨reads, by rw [show t.link = (pumpAll w).link by simp [t], ← hreads, hwlink]⟩
    · obtain ⟨later, hlater⟩ := hprefix
      exact ⟨later, by rw [show t.host.writeQ = w.host.writeQ by simp [t], ← hlater]; simp⟩
    · rwa [show t.host.waiters = w.host.waiters by simp [t]]
    · have hp : p = (s.host.writeQ ++ [item], []) := by simp only [p, hnone, List.filter_nil, letIn]
      rw [show t.host.writeQ = w.host.writeQ by simp [t], show t.host.waiters = w.host.waiters by simp [t], hqueue, hp]
      simp only [List.nil_append, letIn_message, List.length_append, List.length_singleton, List.append_assoc]
      rfl
    · rw [show t.host.vectors = w.host.vectors by simp [t], hvectors]
      by_cases hj : j = x.ring
      · rw [hj, ← hv]
      · simp only [hj, false_and, if_false]
    · rw [htrings, if_neg fun h => hj h.1, hcring, if_neg hj]
    · simp only [htrings, hcring, if_true, true_and]
      cases hi : interrupt with
      | false =>
        by_cases hc : r.intOn = true ∧ counts = true
        · by_cases h0 : r.unsignalled = 0 <;> simp [hc, h0, advanceFill]
        · have hc' : ¬(r.intOn = true ∧ counts = true ∧ r.unsignalled = 0) := fun h => hc ⟨h.1, h.2.1⟩
          simp only [Bool.false_eq_true, if_false, hc, hc']
          rfl
      | true =>
        have hc : r.intOn = true ∧ counts = true := (hinterrupt.1 hi).imp_right And.left
        simp [hc, advanceFill]
    · cases hi : x.item with
      | completion d =>
        refine ⟨?_, ?_⟩
        · rw [ctx_congr (s := u) (by rw [htsched])]
          simp only [u, itemPlaced, hi]
          exact freeCtx_same _ d
        · rw [htlines]
          simp [u, itemPlaced, hi, discardItem]
      | lap n =>
        refine ⟨?_, ?_⟩
        · rw [line_congr (s := u) (by rw [htlines])]
          simp [u, itemPlaced, hi, discardItem]
        · rw [htsched]
          simp [u, itemPlaced, hi, discardItem]
      | ringStopped k =>
        refine ⟨?_, ?_, ?_⟩
        · rw [ring_congr (s := u) (by rw [htfetcher])]
          simp [u, itemPlaced, hi, discardItem]
        · rw [htsched]
          simp [u, itemPlaced, hi, discardItem]
        · rw [htlines]
          simp [u, itemPlaced, hi, discardItem]
      | storeFault =>
        refine ⟨?_, ?_, ?_⟩
        · rw [show t.store.faultPending = w.store.faultPending by simp [t], hwstore]
          simp [u, itemPlaced, hi, discardItem]
        · rw [htsched]
          simp [u, itemPlaced, hi, discardItem]
        · rw [htlines]
          simp [u, itemPlaced, hi, discardItem]
      | respFaulted k =>
        refine ⟨?_, ?_, ?_⟩
        · rw [htresp, hwresp.2, hcslots]
          simp [u, itemPlaced, hi, discardItem, State.setFaultSlot]
        · rw [htsched]
          simp [u, itemPlaced, hi, discardItem]
        · rw [htlines]
          simp [u, itemPlaced, hi, discardItem]
  · intro s hsome hwait hfull
    obtain ⟨x, hx⟩ : ∃ x, nextItem s = some x := by
      obtain ⟨y, hy, hyw⟩ := hsome
      refine Option.isSome_iff_exists.1 (List.find?_isSome.2 ⟨y, hy, (canWrite_iff _).2 hyw⟩)
    have hno : hasPlace .item 1 s = false := by
      simp only [hasPlace, Config.writeQueue, Bool.and_eq_false_iff]
      refine hfull.imp (fun h => decide_eq_false (by omega)) fun h => ?_
      obtain ⟨y, ys, hw⟩ := List.exists_cons_of_ne_nil h
      rw [hw] at hwait ⊢
      simp only [List.mem_cons, not_or] at hwait
      simpa using Ne.symm hwait.1
    have hawait : awaitPlace .item s = s.setHost { s.host with waiters := s.host.waiters ++ [.item] } := if_neg hwait
    refine ⟨settleIdle (awaitPlace .item s), ?_, onlyIn_settleIdle s (onlyIn_awaitPlace s .item), ?_, ?_, ?_⟩
    · simp only [exec, execItemWrite, hx, hno, Bool.false_eq_true, if_false]
      rfl
    · simp [hawait]
    · simp [hawait]
    · simp
  · intro s r old hold hactive hint htime huns hdue
    let t := settleIdle (sendInterrupt r s)
    have hexec : exec (.moderationTimeExpiry r) s = .next t := by
      simp only [exec, execModerationTimeExpiry, hold, hactive, hint, htime, huns, hdue, and_self, if_true]
      rfl
    have hsend : sendInterrupt r s = interruptIf true r s := rfl
    obtain ⟨hqueue, hvectors, -⟩ := interruptIf_host true r s
    rw [← hsend] at hqueue hvectors
    simp only [true_and] at hqueue hvectors
    have hq : t.host.writeQ = (sendInterrupt r s).host.writeQ := by simp [t]
    have hv : t.host.vectors = (sendInterrupt r s).host.vectors := by simp [t]
    refine ⟨t, hexec, onlyIn_settleIdle s (onlyIn_sendInterrupt s r), fun j => ?_, by simp [t], ?_⟩
    · rw [settleIdle_respRing, hsend, interruptIf_respRing]
      simp only [and_true]
    · rw [hq, hv]
      by_cases he : s.host.msgEnable = true
      · by_cases hm : (s.host.vectors.get r).masked = true
        · simp only [he, hm, true_and, and_true] at hqueue hvectors
          simp only [he, hm, if_true, hvectors]
          exact ⟨trivial, (Prod.mk.inj hqueue).1⟩
        · simp only [he, hm, true_and] at hqueue hvectors
          simp only [he, hm, if_true]
          refine ⟨Table.ext_get fun j => ?_, fun hnone hlen => ?_⟩
          · rw [hvectors]; simp
          · rw [hnone, List.nil_append, letIn_message] at hqueue
            simp only [Nat.succ_le_of_lt hlen, if_true] at hqueue
            exact (Prod.mk.inj hqueue).1
      · simp only [he, Bool.false_eq_true, false_and, and_false, if_false] at hqueue hvectors
        simp only [he, Bool.false_eq_true, if_false]
        exact ⟨(Prod.mk.inj hqueue).1, Table.ext_get fun j => hvectors j⟩

end Sys2Proof.Machine

/-! PROOF. The start of a CLOSE_LINE: the operations it aborts, the marks it gives, and the drain (R18, R115, R129,
R131, R132). -/

namespace Sys2Proof.Machine

variable {s : State}

/-! ### Operations that end ABORTED one after the other -/

theorem onlyIn_abortAll (cs : List CtxId) (s : State) :
    OnlyIn [.ringFetcher, .scheduler, .responseUnit] s (abortAll cs s) := by
  induction cs generalizing s with
  | nil => exact onlyIn_refl s _
  | cons c cs ih => exact ((onlyIn_finish s c _ _ _).mono (by simp)).trans (ih _)

theorem flows_abortAll (cs : List CtxId) (s : State) : Flows s (abortAll cs s) :=
  flows_foldl s (fun t c => flows_finish t c _ _ _) cs

theorem abortAll_ctx_other {cs : List CtxId} {d : CtxId} (h : d ∉ cs) (s : State) : (abortAll cs s).ctx d = s.ctx d := by
  induction cs generalizing s with
  | nil => rfl
  | cons c cs ih =>
    simp only [List.mem_cons, not_or] at h
    exact (ih h.2 _).trans (finish_other s _ _ _ h.1)

theorem finish_of_free {c : CtxId} (h : s.ctx c = none) (st : Status) (p a : Nat) : finish c st p a s = s := by
  simp [finish, h]

theorem abortAll_ctx_free {d : CtxId} (cs : List CtxId) (h : s.ctx d = none) : (abortAll cs s).ctx d = none := by
  induction cs generalizing s with
  | nil => exact h
  | cons c cs ih =>
    refine ih (s := finish c .aborted 0 0 s) ?_
    by_cases hd : d = c
    · subst hd; rw [finish_of_free h, h]
    · rw [finish_other s _ _ _ hd, h]

/-- An operation's context once it has ended (R55, R145). -/
theorem finish_ctx_same {c : CtxId} {o : Operation} (ho : s.ctx c = some o) (st : Status) (p a : Nat) :
    (finish c st p a s).ctx c = if (s.respRing (s.ring o.ring).resp).state = .active then
      some { o with phase := .done, stage := none, result := some ⟨st, p, a⟩ } else none := by
  split
  · next ha => rw [finish_active s _ _ _ ho ha, State.setPosts_ctx, State.setCtx_same]
  · next ha => rw [finish_discarded s _ _ _ ho ha, freeCtx_same]

/-- Each of the operations ends ABORTED (R129). -/
theorem abortAll_ends {cs : List CtxId} {d : CtxId} (h : d ∈ cs) (s : State) :
    EndsWith s d ⟨.aborted, 0, 0⟩ (abortAll cs s) := by
  induction cs generalizing s with
  | nil => cases h
  | cons c cs ih =>
    let u := finish c .aborted 0 0 s
    have hu : Flows s u := flows_finish s c _ _ _
    by_cases hdc : d = c
    · subst hdc
      by_cases hd : d ∈ cs
      · intro o ho
        by_cases ha : (s.respRing (s.ring o.ring).resp).state = .active
        · refine (ih hd u).before hu (fun q hq => ?_) o ho
          cases ho.symm.trans hq
          exact ⟨_, (finish_ctx_same ho _ _ _).trans (if_pos ha), rfl, rfl⟩
        · rw [if_neg ha]
          exact abortAll_ctx_free cs ((finish_ctx_same ho _ _ _).trans (if_neg ha))
      · exact (endsWith_finish s d _ _ _).after (flows_abortAll cs u) (abortAll_ctx_other hd u)
    · have hd : d ∈ cs := (List.mem_cons.1 h).resolve_left hdc
      exact (ih hd u).before hu (.of_eq (finish_other s _ _ _ hdc))

/-- The completion an operation posts is the same after another operation, or itself, has ended. -/
theorem completionPost_finish (c d : CtxId) (st : Status) (p a : Nat) (s : State) :
    completionPost (finish c st p a s) d = completionPost s d := by
  have hf := flows_finish s c st p a
  by_cases hd : d = c
  · subst hd
    cases ho : s.ctx d with
    | none => rw [finish_of_free ho]
    | some o =>
      have hctx := finish_ctx_same ho st p a
      by_cases ha : (s.respRing (s.ring o.ring).resp).state = .active
      · simp [completionPost, ho, hctx, ha, hf.resp]
      · simp [completionPost, ho, hctx, ha]
  · exact completionPost_congr (finish_other s _ _ _ hd) fun o _ => ⟨hf.resp _, hf.active _⟩

theorem abortAll_completionPost (cs : List CtxId) (d : CtxId) (s : State) :
    completionPost (abortAll cs s) d = completionPost s d :=
  foldl_keeps (fun t => completionPost t d) _ (fun t c => completionPost_finish c d _ _ _ t) cs s

/-- The items of the operations join the post queues in their order (R129). -/
theorem abortAll_posts (cs : List CtxId) (s : State) :
    (abortAll cs s).resp.posts = s.resp.posts ++ cs.filterMap (completionPost s) := by
  induction cs generalizing s with
  | nil => simp [abortAll]
  | cons c cs ih =>
    rw [show abortAll (c :: cs) s = abortAll cs (finish c .aborted 0 0 s) from rfl, ih, finish_posts,
      List.filterMap_congr fun d _ => completionPost_finish c d .aborted 0 0 s]
    cases h : completionPost s c <;> simp [h]

/-! ### The parts of a close -/

/-- The end of an operation seen from a state with the same contexts, bindings and response rings. -/
theorem EndsWith.congr {u t : State} {c : CtxId} {r : Settled} (h : EndsWith u c r t) (hc : u.ctx c = s.ctx c)
    (hr : ∀ k, u.ring k = s.ring k) (ha : ∀ q, u.respRing q = s.respRing q) : EndsWith s c r t := by
  intro o ho
  have := h o (hc.trans ho)
  rwa [hr, ha] at this

theorem getsMark_done {n : LineId} {o : Operation} (h : o.phase = .done) : getsMark n o = false := by
  refine Bool.eq_false_iff.2 fun hm => ?_
  have := (getsMark_iff n o).1 hm
  simp [TakesMark, h] at this

/-- A line whose close has begun, its LAP notice withdrawn (R18, R129). -/
def closeBegun (n : LineId) (s : State) : State := withdrawLap n (s.setLine n { s.line n with state := .closing })

theorem closeBegun_line (n j : LineId) (s : State) : (closeBegun n s).line j =
    if j = n then { s.line n with state := .closing, lapPending := false } else s.line j := by
  unfold closeBegun withdrawLap
  by_cases h : j = n
  · subst h; simp
  · simp [h]

/-- The state in which a close has ended the operations it aborts (R129). -/
def closeAborted (n : LineId) (s : State) : State := abortWriters n (abortParked n (closeBegun n s))

theorem closeLine_eq (n : LineId) (c : CtxId) (h : (s.line n).state = .opened) : closeLine n c s =
    dropItemWait (drainTest n ((giveMarks n (closeAborted n s)).modCtx c fun o =>
      { o with phase := .acting, ended := (s.line n).park.length + (closeSplit n s).1.length })) := by
  simp only [closeLine, h, ne_eq, not_true, if_false]
  rfl

/-- The operations on a line's park list and the writers a close ends; what a close leaves of them (R129). -/
structure Aborts (s : State) (n : LineId) (aborted left : List Writer) : Prop where
  split : closeSplit n s = (aborted, left)
  apart : ∀ x ∈ (s.line n).park, ∀ y ∈ (s.line n).writers, x.ctx ≠ y.ctx
  sub : aborted ⊆ (s.line n).writers

theorem closeSplit_eq {n : LineId} {aborted left : List Writer} (h : aborted ++ left = (s.line n).writers ∧
    ((s.line n).writers = [] ∨
      ∃ x xs, (s.line n).writers = x :: xs ∧ s.inPhase x.ctx .guardWait = true ∧ left = []) ∨
      (∃ x, (s.line n).writers = x :: aborted ∧ s.inPhase x.ctx .guardWait = false ∧ left = [x])) :
    closeSplit n s = (aborted, left) := by
  unfold closeSplit
  rcases h with ⟨happ, h | ⟨x, xs, hw, hg, rfl⟩⟩ | ⟨x, hw, hg, rfl⟩
  · rw [h] at happ ⊢
    obtain ⟨rfl, rfl⟩ := List.append_eq_nil_iff.1 happ
    rfl
  · rw [hw] at happ ⊢
    simp only [hg, if_true, ← happ, List.append_nil]
  · rw [hw]
    simp [hg]

/-- What the aborts of a close do (R129). -/
structure CloseAborts (s : State) (n : LineId) (aborted left : List Writer) (t : State) : Prop where
  line : ∀ j, t.line j = if j = n then
    { s.line n with state := .closing, lapPending := false, park := [], writers := left } else s.line j
  posts : t.resp.posts = s.resp.posts.filter (fun x => decide (x.item ≠ .lap n)) ++
    ((s.line n).park.map Parked.ctx ++ aborted.map Writer.ctx).filterMap (completionPost s)
  timer : t.parkTimer = s.parkTimer.filter fun z => decide (z.1 ∉ (s.line n).park.map Parked.ctx)
  ctx : ∀ d, d ∉ (s.line n).park.map Parked.ctx → d ∉ aborted.map Writer.ctx → t.ctx d = s.ctx d
  ends : ∀ d, d ∈ (s.line n).park.map Parked.ctx ∨ d ∈ aborted.map Writer.ctx → EndsWith s d ⟨.aborted, 0, 0⟩ t
  flows : Flows (closeBegun n s) t
  only : OnlyIn [.ringFetcher, .scheduler, .lineTable, .parkTimer, .responseUnit] s t
  posted : ∀ d, completionPost t d = completionPost s d

theorem closeAborted_spec {n : LineId} {aborted left : List Writer} (h : Aborts s n aborted left) :
    CloseAborts s n aborted left (closeAborted n s) := by
  let P := (s.line n).park.map Parked.ctx
  let A := aborted.map Writer.ctx
  let s1 := closeBegun n s
  have hs1 : s1.line n = { s.line n with state := .closing, lapPending := false } := by rw [closeBegun_line, if_pos rfl]
  let u := dropDeadlines P (s1.setLine n { s1.line n with park := [] })
  have hparked : abortParked n s1 = abortAll P u := by
    have hP : parkedOn n s1 = P := by unfold parkedOn; rw [hs1]
    unfold abortParked
    rw [hP]
  have huctx : ∀ d, u.ctx d = s.ctx d := fun d => by simp [u, dropDeadlines, s1, closeBegun, withdrawLap]
  have huring : ∀ k, u.ring k = s.ring k := fun k => by simp [u, dropDeadlines, s1, closeBegun, withdrawLap]
  have huresp : ∀ q, u.respRing q = s.respRing q := fun q => by simp [u, dropDeadlines, s1, closeBegun, withdrawLap]
  let v := abortAll P u
  have hvonly := onlyIn_abortAll P u
  have hvline : ∀ j, v.line j = u.line j := line_congr (hvonly.2.2 .lineTable (by simp))
  have huline : ∀ j, u.line j = if j = n then
      { s.line n with state := .closing, lapPending := false, park := [] } else s.line j := fun j => by
    by_cases hj : j = n
    · subst hj
      rw [if_pos rfl, show u.line j = _ from State.setLine_same _ _ _, hs1]
    · rw [if_neg hj, show u.line j = s1.line j from State.setLine_other _ _ _ _ hj, closeBegun_line, if_neg hj]
  have hvn : v.line n = { s.line n with state := .closing, lapPending := false, park := [] } := by
    rw [hvline, huline, if_pos rfl]
  have hvctx : ∀ d, d ∉ P → v.ctx d = s.ctx d := fun d hd => (abortAll_ctx_other hd u).trans (huctx d)
  have hsplit : closeSplit n v = (aborted, left) := by
    rw [← h.split]
    unfold closeSplit
    rw [hvn]
    cases hw : (s.line n).writers with
    | nil => rfl
    | cons x xs =>
      have hx : x.ctx ∉ P := fun hx => by
        obtain ⟨y, hy, he⟩ := List.mem_map.1 hx
        exact h.apart y hy x (by rw [hw]; simp) he
      dsimp only
      rw [inPhase_congr s (hvctx _ hx)]
  let w := v.setLine n { v.line n with writers := left }
  have hclosed : closeAborted n s = abortAll A w := by
    unfold closeAborted abortWriters
    rw [hparked, hsplit]
  have honly := onlyIn_abortAll A w
  have hpost : ∀ d, completionPost v d = completionPost s d := fun d =>
    (abortAll_completionPost P d u).trans (completionPost_congr (huctx d) fun o _ => ⟨by rw [huring], by rw [huresp]⟩)
  have hapart : ∀ d ∈ P, d ∉ A := fun d hd ha => by
    obtain ⟨x, hx, rfl⟩ := List.mem_map.1 hd
    obtain ⟨y, hy, he⟩ := List.mem_map.1 ha
    exact h.apart x hx y (h.sub hy) he.symm
  have hwflows : Flows s1 w := (Flows.of_same rfl rfl : Flows s1 u).trans ((flows_abortAll P u).trans (flows_setLine v n _))
  rw [hclosed]
  refine ⟨fun j => ?_, ?_, ?_, fun d hp ha => ?_, fun d hd => ?_, hwflows.trans (flows_abortAll A w), ?_, fun d => ?_⟩
  · rw [line_congr (honly.2.2 .lineTable (by simp))]
    by_cases hj : j = n
    · subst hj
      rw [if_pos rfl, show w.line j = _ from State.setLine_same _ _ _, hvn]
    · rw [if_neg hj, show w.line j = v.line j from State.setLine_other _ _ _ _ hj, hvline, huline, if_neg hj]
  · rw [abortAll_posts, show w.resp.posts = v.resp.posts from rfl, abortAll_posts, List.filterMap_append,
      ← List.append_assoc, show completionPost w = completionPost s from funext hpost]
    rfl
  · rw [show (abortAll A w).parkTimer = w.parkTimer from honly.2.2 .parkTimer (by simp)]
    exact hvonly.2.2 .parkTimer (by simp)
  · rw [abortAll_ctx_other ha]
    exact hvctx d hp
  · rcases hd with hd | hd
    · have := (abortAll_ends hd u).after ((flows_setLine v n _).trans (flows_abortAll A w))
        (abortAll_ctx_other (hapart d hd) w)
      exact this.congr (huctx d) huring huresp
    · have hdP : d ∉ P := fun hp => hapart d hp hd
      have := (abortAll_ends hd w).before ((flows_abortAll P u).trans (flows_setLine v n _))
        (.of_eq ((hvctx d hdP).trans (huctx d).symm))
      exact this.congr (huctx d) huring huresp
  · have hbegun : OnlyIn [.lineTable, .responseUnit] s s1 :=
      (((onlyIn_setLine s n _).mono (by simp)).trans ((onlyIn_setPosts _ _).mono (by simp))).trans
        ((onlyIn_setLine _ n _).mono (by simp))
    have hu : OnlyIn [.lineTable, .parkTimer] s1 u :=
      ((onlyIn_setLine s1 n _).mono (by simp)).trans ((onlyIn_setParkTimer _ _).mono (by simp))
    exact ((((hbegun.mono (by simp)).trans (hu.mono (by simp))).trans (hvonly.mono (by simp))).trans
      ((onlyIn_setLine v n _).mono (by simp))).trans (honly.mono (by simp))
  · rw [abortAll_completionPost]
    exact hpost d

/-- A drain posts its CLOSE_LINE's completion (R132). -/
theorem drainTest_posts (n : LineId) (s : State) : (drainTest n s).resp.posts = s.resp.posts ++
    if emptied (s.line n) = true ∧ holdsCloseLine n s = true then (completionPost s 0).toList else [] := by
  by_cases h : (s.line n).state = .closing ∧ drained (s.line n) = true
  · have he : emptied (s.line n) = true := by simp [emptied, h.1, h.2]
    rw [drainTest_of_drained s h]
    by_cases hc : holdsCloseLine n s = true
    · rw [if_pos hc, finish_posts, if_pos ⟨he, hc⟩]
      rfl
    · rw [if_neg hc, if_neg fun h => hc h.2]
      simp [lineFreed]
  · have he : ¬emptied (s.line n) = true := by simpa [emptied] using h
    rw [show drainTest n s = s from if_neg h, if_neg fun h => he h.1, List.append_nil]

/-- The completion posted depends on the operation's ring only, of the operation (R55). -/
theorem completionPost_of_ring {t : State} {c : CtxId} {o q : Operation} (ho : s.ctx c = some o) (hq : t.ctx c = some q)
    (hr : q.ring = o.ring) (hf : Flows s t) : completionPost t c = completionPost s c := by
  simp only [completionPost, ho, hq, Option.bind_some, hr, hf.resp, hf.active]

/-- What an event that leaves the Host Port alone leaves waiting. -/
theorem OnlyIn.waiters {bs : List Block} {t : State} (h : OnlyIn bs s t) (hb : Block.hostPort ∉ bs) :
    t.host.waiters = s.host.waiters := by
  obtain ⟨hhost, -⟩ := h.2.2 .hostPort hb
  exact (congrArg HostPort.waiters hhost :)

theorem flows_giveMarks (n : LineId) (s : State) : Flows s (giveMarks n s) := .of_same rfl rfl

theorem onlyIn_giveMarks (n : LineId) (s : State) : OnlyIn [.scheduler] s (giveMarks n s) :=
  ⟨rfl, rfl, fun b hb => by cases b <;> simp_all [Same, giveMarks]⟩

end Sys2Proof.Machine

namespace Sys2Proof

open Machine

/-- Settles O48: the aborts, then the marks and the CLOSE_LINE's own phase, then the drain test. -/
theorem closeLine : Obligations.CloseLine := by
  intro s n aborted left marked hstart hmarked
  obtain ⟨o, -, ho, hob, -⟩ := (nextStart_eq_some_iff s 0 0 (.closeLine n)).1 hstart
  have hexec : exec .closeLine s = .next (settleIdle (Machine.closeLine n 0 s)) := by
    simp only [exec, execCloseLine, hstart]
    rfl
  refine ⟨fun hstate => ?_, fun hstate hpark hwriters hapart hsplit => ?_⟩
  · have h := onlyEnds_finish s 0 .lineBusy 0 (lineCode (s.line n).state)
    refine ⟨_, hexec, ?_⟩
    simp only [Machine.closeLine, hstate, ne_eq, not_false_eq_true, if_true]
    exact ⟨h.only, h.ends⟩
  have hcs := closeSplit_eq hsplit
  have hsub : aborted ⊆ (s.line n).writers := by
    rcases hsplit with ⟨happ, -⟩ | ⟨x, hw, -, -⟩
    · exact happ ▸ List.subset_append_left aborted left
    · exact hw ▸ List.subset_cons_self x aborted
  obtain ⟨u, hudef⟩ : ∃ u, u = closeAborted n s := ⟨_, rfl⟩
  have hu : CloseAborts s n aborted left u := hudef ▸ closeAborted_spec ⟨hcs, hapart, hsub⟩
  let ended := (s.line n).park.length + aborted.length
  obtain ⟨v, hvdef⟩ : ∃ v, v = (giveMarks n u).modCtx 0 fun o => { o with phase := .acting, ended := ended } := ⟨_, rfl⟩
  obtain ⟨w, hwdef⟩ : ∃ w, w = drainTest n v := ⟨_, rfl⟩
  obtain ⟨t, ht⟩ : ∃ t, t = settleIdle (dropItemWait w) := ⟨_, rfl⟩
  have hexec : exec .closeLine s = .next t := by
    rw [hexec, closeLine_eq n 0 hstate, hcs, ← hudef, ht, hwdef, hvdef]
  let l : Line := { s.line n with state := .closing, lapPending := false, park := [], writers := left }
  have h0P : (0 : CtxId) ∉ (s.line n).park.map Parked.ctx := fun h => by
    obtain ⟨x, hx, he⟩ := List.mem_map.1 h
    exact hpark x hx he
  have h0A : (0 : CtxId) ∉ aborted.map Writer.ctx := fun h => by
    obtain ⟨x, hx, he⟩ := List.mem_map.1 h
    exact hwriters x (hsub hx) he
  have hu0 : u.ctx 0 = some o := (hu.ctx 0 h0P h0A).trans ho
  have hvctx : ∀ d, v.ctx d = if d = 0 then some { o with phase := .acting, ended := ended } else
      (u.ctx d).map fun o => if getsMark n o then { o with marks := n :: o.marks } else o := fun d => by
    rw [hvdef, modCtx_ctx, giveMarks_ctx, giveMarks_ctx, hu0]
    simp [getsMark, hob]
  have hv0 : v.ctx 0 = some { o with phase := .acting, ended := ended } := by rw [hvctx, if_pos rfl]
  have huv : Flows u v := hvdef ▸ (flows_giveMarks n u).trans (flows_modCtx _ 0 _)
  have hmarks : OnlyIn [.scheduler] u v := hvdef ▸ (onlyIn_giveMarks n u).trans (onlyIn_modCtx _ 0 _)
  have hvonly : OnlyIn [.ringFetcher, .scheduler, .lineTable, .parkTimer, .responseUnit] s v :=
    hu.only.trans (hmarks.mono (by simp))
  have hvline : ∀ j, v.line j = u.line j := line_congr (hmarks.2.2 .lineTable (by simp))
  have hvn : v.line n = l := by rw [hvline, hu.line, if_pos rfl]
  have hvstore : v.store = s.store := hvonly.2.2 .storeController (by simp)
  have hvposts : v.resp = u.resp := hmarks.2.2 .responseUnit (by simp)
  have hleft : LineLeft v n l w := hwdef ▸ drainTest_lineLeft v hvn rfl (Flows.refl v) fun _ _ => rfl
  obtain ⟨hwline, hwstore, hwcloses⟩ := hleft.decided
  have hdrains : emptied l = true ↔ left = [] ∧ (s.line n).pins = [] := by
    rw [emptied_iff]
    simp [l]
  obtain ⟨hsched, hfetcher, hlines, htimer, hstore, hresp⟩ := settled_dropItemWait w (t := t) ht
  have hwt : Flows w t := ht ▸ (flows_dropItemWait w).trans (flows_settleIdle _)
  have hvw : Flows v w := hwdef ▸ flows_drainTest v n
  have hctx : ∀ d, d ≠ 0 → t.ctx d = (u.ctx d).map fun o => if getsMark n o then { o with marks := n :: o.marks } else o :=
    fun d hd => by
      rw [ctx_congr (s := w) (by rw [hsched]), hwdef, drainTest_ctx v (.inl hd), hvctx, if_neg hd]
  have hut : Flows u t := (huv.trans hvw).trans hwt
  have hwonly : OnlyIn [.ringFetcher, .scheduler, .lineTable, .parkTimer, .storeController, .responseUnit] s w :=
    (hvonly.mono (by simp)).trans (hwdef ▸ (onlyIn_drainTest v n).mono (by simp))
  refine ⟨t, hexec, ?_, fun hwait => ?_, fun j hj => ?_, ?_, fun d hd => ?_, ?_, ?_, fun d q hd0 hdP hdA hq => ?_, ?_⟩
  · rw [ht]
    exact onlyIn_settleIdle s ((hwonly.mono (by simp)).trans ((onlyIn_dropItemWait w).mono (by simp)))
  · have hwaiters : w.host.waiters = s.host.waiters := hwonly.waiters (by simp)
    rw [ht, dropItemWait_keeps w (.inl (by rwa [hwaiters]))]
    exact (onlyIn_settleIdle s hwonly).2.2 .hostPort (by simp)
  · rw [line_congr hlines, hwdef, drainTest_line_other v hj, hvline, hu.line, if_neg hj]
  · rw [hstore, hwstore, hvstore]
  · have hd0 : d ≠ 0 := by
      rintro rfl
      exact hd.elim h0P h0A
    intro q hq
    have hends := hu.ends d hd
    refine (hends.after hut ?_) q hq
    rw [hctx d hd0]
    cases hud : u.ctx d with
    | none => rfl
    | some x =>
      have hdone : x.phase = .done := by
        by_contra hx
        have := hends.not_inPhase hq hx
        rw [inPhase_of u hud] at this
        simp at this
      simp [getsMark_done hdone]
  · rw [htimer, hwdef, (drainTest_frame v n).2.2.2.2.1, show v.parkTimer = u.parkTimer from hmarks.2.2 .parkTimer (by simp)]
    exact hu.timer
  · have hzero : completionPost v 0 = completionPost s 0 :=
      (completionPost_of_ring hu0 hv0 rfl huv).trans (hu.posted 0)
    have hholds : holdsCloseLine n v = true := (holdsCloseLine_iff v n).2 ⟨_, hv0, hob, rfl⟩
    have hwposts : w.resp.posts = v.resp.posts ++ if emptied l = true then (completionPost s 0).toList else [] := by
      rw [hwdef, drainTest_posts, hvn, hholds, hzero]
      simp
    rw [hresp, hwposts, hvposts, hu.posts]
    by_cases he : left = [] ∧ (s.line n).pins = []
    · rw [if_pos he, if_pos (hdrains.2 he), List.filterMap_append, List.append_assoc]
      cases h : completionPost s 0 <;> simp [h]
    · rw [if_neg he, if_neg (mt hdrains.1 he)]
      simp
  · rw [hctx d hd0, hu.ctx d hdP hdA, hq, Option.map_some,
      show getsMark n q = marked q by rw [Bool.eq_iff_iff, getsMark_iff, hmarked]]
  · by_cases he : left = [] ∧ (s.line n).pins = []
    · have hem := hdrains.2 he
      rw [if_pos he]
      refine ⟨?_, ?_, ?_⟩
      · rw [line_congr hlines, hwline, if_pos hem]
      · rw [hstore, hwstore, if_pos hem, hvstore]
      · have hends := (hwcloses hem _ hv0 hob rfl).before (hu.flows.trans huv) fun q hq =>
          ⟨_, hv0, by cases ho.symm.trans hq; exact ⟨rfl, rfl⟩⟩
        have := hends.after hwt (ctx_congr (by rw [hsched]) 0)
        exact fun q hq => this q hq
    · have hem : emptied l ≠ true := mt hdrains.1 he
      have hw : w = v := by
        rw [hwdef]
        exact if_neg fun h => hem (by rw [← hvn]; simp [emptied, h.1, h.2])
      rw [if_neg he]
      refine ⟨?_, ?_, { o with phase := .acting, ended := ended }, ?_, rfl⟩
      · rw [line_congr hlines, hwline, if_neg hem]
      · rw [hstore, hwstore, if_neg hem, hvstore]
      · rw [ctx_congr (s := w) (by rw [hsched]), hw, hv0]

end Sys2Proof

/-! PROOF. DELETE_RING: the records it aborts, one after the other, and the end of the ring's drain (R59, R60). -/

namespace Sys2Proof.Machine

variable {s : State}

/-! ### The records of a ring that end ABORTED -/

/-- A record that a DELETE_RING of its ring ends: WAITING or PARKED (R59). -/
def aborts (s : State) (d : CtxId) : Bool := s.inPhase d .waiting || s.inPhase d .parked

/-- The line whose park list a PARKED record leaves when it ends (R59). -/
def parkedOf (s : State) (d : CtxId) : Option LineId :=
  (s.ctx d).bind fun o => if o.phase = .parked then parkedLine o else none

theorem aborts_congr {t : State} {d : CtxId} (h : t.ctx d = s.ctx d) : aborts t d = aborts s d := by
  simp only [aborts, inPhase_congr s h]

theorem parkedOf_congr {t : State} {d : CtxId} (h : t.ctx d = s.ctx d) : parkedOf t d = parkedOf s d := by
  simp only [parkedOf, h]

theorem parkedOf_eq_some_iff (d : CtxId) (n : LineId) : parkedOf s d = some n ↔
    ∃ q, s.ctx d = some q ∧ q.phase = .parked ∧ parkedLine q = some n := by
  unfold parkedOf
  cases s.ctx d with
  | none => simp
  | some o => by_cases h : o.phase = .parked <;> simp [h]

theorem parkedOf_eq_none_of_not_aborts {d : CtxId} (h : aborts s d = false) : parkedOf s d = none := by
  refine Option.eq_none_iff_forall_ne_some.2 fun n hn => ?_
  obtain ⟨q, hq, hp, -⟩ := (parkedOf_eq_some_iff d n).1 hn
  simp [aborts, inPhase_of s hq, hp] at h

theorem parkedOf_isSome_iff (d : CtxId) : parkedOf s d ≠ none ↔
    ∃ q, s.ctx d = some q ∧ q.phase = .parked ∧ (parkedLine q).isSome = true := by
  rw [Option.ne_none_iff_exists']
  simp only [parkedOf_eq_some_iff, Option.isSome_iff_exists]
  exact ⟨fun ⟨n, q, h1, h2, h3⟩ => ⟨q, h1, h2, n, h3⟩, fun ⟨q, h1, h2, n, h3⟩ => ⟨n, q, h1, h2, h3⟩⟩

/-- What ending the WAITING and PARKED records among `ds`, all of ring `k`, does (R59). -/
structure RecordsAborted (s : State) (k : RingId) (ds : List CtxId) (t : State) : Prop where
  ctx : ∀ d, ¬(d ∈ ds ∧ aborts s d = true) → t.ctx d = s.ctx d
  ends : ∀ d ∈ ds, aborts s d = true → EndsWith s d ⟨.aborted, 0, 0⟩ t
  rings : ∀ j, j ≠ k → t.ring j = s.ring j
  ring : (s.ring k).window.Nodup → t.ring k = { s.ring k with
    window := if (s.respRing (s.ring k).resp).state = .active then (s.ring k).window
      else (s.ring k).window.filter fun e => decide ¬(e ∈ ds ∧ aborts s e = true) }
  posts : t.resp.posts = s.resp.posts ++ if (s.respRing (s.ring k).resp).state = .active then
    (ds.filter (aborts s)).map fun d => ⟨(s.ring k).resp, .completion d⟩ else []
  timer : t.parkTimer = s.parkTimer.filter fun z => decide (z.1 ∈ ds → parkedOf s z.1 = none)
  line : ∀ n, (s.line n).state ≠ .closing → t.line n = { s.line n with
    park := (s.line n).park.filter fun y => decide (y.ctx ∈ ds → parkedOf s y.ctx ≠ some n) }
  store : (∀ n, (s.line n).state ≠ .closing) → t.store = s.store
  flows : Flows s t
  frame : t.sched.ready = s.sched.ready ∧ t.fetcher.fetch = s.fetcher.fetch ∧ t.store.cells = s.store.cells
  only : OnlyIn [.ringFetcher, .scheduler, .lineTable, .parkTimer, .storeController, .responseUnit] s t

/-- A record that is not WAITING or PARKED goes on (R59). -/
theorem recordsAborted_kept {k : RingId} {ds : List CtxId} (h : ∀ d ∈ ds, aborts s d = false) :
    RecordsAborted s k ds s := by
  have hnot : ∀ d, ¬(d ∈ ds ∧ aborts s d = true) := fun d ⟨hd, ha⟩ => by rw [h d hd] at ha; cases ha
  have hnone : ∀ d ∈ ds, parkedOf s d = none := fun d hd => parkedOf_eq_none_of_not_aborts (h d hd)
  refine ⟨fun _ _ => rfl, fun d hd ha => absurd ⟨hd, ha⟩ (hnot d), fun _ _ => rfl, fun _ => ?_, ?_, ?_, fun n _ => ?_,
    fun _ => rfl, Flows.refl s, ⟨rfl, rfl, rfl⟩, onlyIn_refl s _⟩
  · simp [hnot]
  · rw [List.filter_eq_nil_iff.2 fun d hd => by simp [h d hd]]
    simp
  · exact (List.filter_eq_self.2 fun z _ => decide_eq_true (hnone z.1)).symm
  · rw [List.filter_eq_self.2 fun y _ => decide_eq_true fun hy => by rw [hnone _ hy]; simp]

/-- What the end of a record does to its ring's entry and to the post queues (R54, R55). -/
theorem finish_record {k : RingId} {d : CtxId} {o : Operation} (ho : s.ctx d = some o) (hk : o.ring = k) :
    ((s.ring k).window.Nodup → (finish d .aborted 0 0 s).ring k = { s.ring k with
      window := if (s.respRing (s.ring k).resp).state = .active then (s.ring k).window
        else (s.ring k).window.filter fun e => decide (e ≠ d) }) ∧
    (finish d .aborted 0 0 s).resp.posts = s.resp.posts ++
      if (s.respRing (s.ring k).resp).state = .active then [⟨(s.ring k).resp, .completion d⟩] else [] := by
  subst hk
  refine ⟨fun hnd => ?_, ?_⟩
  · by_cases ha : (s.respRing (s.ring o.ring).resp).state = .active
    · rw [finish_active s _ _ _ ho ha, if_pos ha]
      rfl
    · have herase : (s.ring o.ring).window.erase d = (s.ring o.ring).window.filter fun e => decide (e ≠ d) := by
        rw [hnd.erase_eq_filter]
        exact List.filter_congr fun e _ => by simp [bne, beq_eq_decide]
      rw [finish_discarded s _ _ _ ho ha, if_neg ha, ← herase]
      simp [freeCtx]
  · rw [finish_posts, completionPost, ho, Option.bind_some]
    split <;> rfl

/-- A drain that completes no CLOSE_LINE touches its line and the free extents only (R132). -/
theorem drainTest_quiet {n : LineId} (h : holdsCloseLine n s = false) : (drainTest n s).fetcher = s.fetcher ∧
    (drainTest n s).sched = s.sched ∧ (drainTest n s).resp = s.resp := by
  unfold drainTest
  dsimp only
  split
  · rw [if_neg (by rw [h]; simp)]
    exact ⟨rfl, rfl, rfl⟩
  · exact ⟨rfl, rfl, rfl⟩

theorem mem_singleton_aborts {d : CtxId} (ha : aborts s d = true) (e : CtxId) :
    (¬(e ∈ [d] ∧ aborts s e = true)) = (e ≠ d) := by
  by_cases h : e = d
  · subst h; simp [ha]
  · simp [h]

/-- A record on no park list that ends (R59). -/
theorem recordsAborted_finish {k : RingId} {d : CtxId} {o : Operation} (ho : s.ctx d = some o) (hk : o.ring = k)
    (ha : aborts s d = true) (hn : parkedOf s d = none) : RecordsAborted s k [d] (finish d .aborted 0 0 s) := by
  obtain ⟨hring, hposts⟩ := finish_record ho hk
  refine ⟨fun e he => ?_, fun e he _ => ?_, fun j hj => ?_, fun hnd => ?_, ?_, ?_, fun n _ => ?_, fun _ => ?_,
    flows_finish s _ _ _ _, ⟨?_, ?_, ?_⟩, (onlyIn_finish s _ _ _ _).mono (by simp)⟩
  · exact finish_other s _ _ _ fun h => he ⟨by simp [h], h ▸ ha⟩
  · cases List.mem_singleton.1 he
    exact endsWith_finish s _ _ _ _
  · exact finish_ring_other s ho _ _ _ (hk ▸ hj)
  · rw [hring hnd]
    simp only [mem_singleton_aborts ha]
  · rw [hposts]
    simp [ha]
  · rw [(finish_frame s d _ _ _).2.2.2.2.2.1]
    refine (List.filter_eq_self.2 fun z _ => decide_eq_true fun hz => ?_).symm
    rw [List.mem_singleton.1 hz, hn]
  · rw [finish_line, List.filter_eq_self.2 fun y _ => decide_eq_true fun hy => ?_]
    rw [List.mem_singleton.1 hy, hn]
    simp
  · simp
  · simp
  · simp
  · simp


/-- A PARKED record that leaves its line's park list and ends (R59). -/
theorem recordsAborted_unpark {k : RingId} {d : CtxId} {o : Operation} {n : LineId} (ho : s.ctx d = some o)
    (hk : o.ring = k) (hd : d ≠ 0) (hn : parkedOf s d = some n) (hclose : holdsCloseLine n s = false) :
    RecordsAborted s k [d] (drainTest n (finish d .aborted 0 0 (unpark n d s))) := by
  have ha : aborts s d = true := by
    refine Bool.not_eq_false _ ▸ fun h => ?_
    rw [parkedOf_eq_none_of_not_aborts h] at hn
    cases hn
  have huctx : ∀ e, (unpark n d s).ctx e = s.ctx e := ctx_congr (by simp)
  have huring : ∀ j, (unpark n d s).ring j = s.ring j := ring_congr (by simp)
  have huresp : ∀ q, (unpark n d s).respRing q = s.respRing q := respRing_congr (by simp)
  have huposts : (unpark n d s).resp.posts = s.resp.posts := by simp
  have huline : ∀ j, (unpark n d s).line j = if j = n then
      { s.line n with park := (s.line n).park.filter fun x => decide (x.ctx ≠ d) } else s.line j := fun j => by
    by_cases hj : j = n
    · subst hj; rw [unpark_line, if_pos rfl]
    · rw [unpark_line_other _ _ hj, if_neg hj]
  have hutimer : (unpark n d s).parkTimer = s.parkTimer.filter fun z => decide (z.1 ≠ d) := rfl
  have hustore : (unpark n d s).store = s.store := rfl
  have huflows : Flows s (unpark n d s) := flows_unpark s n d
  have huonly := onlyIn_unpark s n d
  have hufetch : (unpark n d s).fetcher = s.fetcher := rfl
  have huready : (unpark n d s).sched = s.sched := rfl
  generalize unpark n d s = u at *
  obtain ⟨hring, hposts⟩ := finish_record ((huctx d).trans ho) hk
  have hvctx : ∀ e, e ≠ d → (finish d .aborted 0 0 u).ctx e = s.ctx e := fun e he =>
    (finish_other u _ _ _ he).trans (huctx e)
  have hvends := (endsWith_finish u d .aborted 0 0).congr (huctx d) huring huresp
  have hvrings : ∀ j, j ≠ k → (finish d .aborted 0 0 u).ring j = s.ring j := fun j hj =>
    (finish_ring_other u ((huctx d).trans ho) _ _ _ (hk ▸ hj)).trans (huring j)
  have hvflows := flows_finish u d .aborted 0 0
  have hvonly := onlyIn_finish u d .aborted 0 0
  have hvframe : (finish d .aborted 0 0 u).sched.ready = u.sched.ready ∧
      (finish d .aborted 0 0 u).fetcher.fetch = u.fetcher.fetch ∧ (finish d .aborted 0 0 u).store = u.store ∧
      (finish d .aborted 0 0 u).lines = u.lines ∧ (finish d .aborted 0 0 u).parkTimer = u.parkTimer := by simp
  generalize finish d .aborted 0 0 u = v at *
  rw [huring, huresp] at hring hposts
  obtain ⟨hvready, hvfetch, hvstore, hvlines, hvtimer⟩ := hvframe
  have hvclose : holdsCloseLine n v = false := (holdsCloseLine_congr s (hvctx 0 (Ne.symm hd)) n).trans hclose
  obtain ⟨hfetcher, hsched, hresp⟩ := drainTest_quiet hvclose
  have hvline : ∀ j, v.line j = u.line j := line_congr hvlines
  have hstay : (s.line n).state ≠ .closing → drainTest n v = v := fun h =>
    drainTest_not v (.inl (by rw [hvline, huline, if_pos rfl]; exact h))
  refine ⟨fun e he => ?_, fun e he _ => ?_, fun j hj => ?_, fun hnd => ?_, ?_, ?_, fun j hj => ?_, fun hall => ?_,
    (huflows.trans hvflows).trans (flows_drainTest v n), ⟨?_, ?_, ?_⟩, ?_⟩
  · rw [ctx_congr (s := v) (by rw [hsched])]
    exact hvctx e fun h => he ⟨by simp [h], h ▸ ha⟩
  · cases List.mem_singleton.1 he
    exact hvends.after (flows_drainTest v n) (ctx_congr (by rw [hsched]) d)
  · rw [ring_congr (s := v) (by rw [hfetcher]), hvrings j hj]
  · rw [ring_congr (s := v) (by rw [hfetcher]), hring hnd]
    simp only [mem_singleton_aborts ha]
  · rw [hresp, hposts, huposts]
    simp [ha]
  · rw [(drainTest_frame v n).2.2.2.2.1, hvtimer, hutimer]
    refine List.filter_congr fun z _ => ?_
    by_cases hz : z.1 = d
    · simp [hz, hn]
    · simp [hz]
  · by_cases hjn : j = n
    · subst hjn
      rw [hstay hj, hvline, huline, if_pos rfl]
      have hpark : ((s.line j).park.filter fun x => decide (x.ctx ≠ d)) =
          (s.line j).park.filter fun y => decide (y.ctx ∈ [d] → parkedOf s y.ctx ≠ some j) := by
        refine List.filter_congr fun y _ => ?_
        by_cases hy : y.ctx = d
        · simp [hy, hn]
        · simp [hy]
      rw [hpark]
    · rw [drainTest_line_other v hjn, hvline, huline, if_neg hjn, List.filter_eq_self.2 fun y _ => ?_]
      refine decide_eq_true fun hy => ?_
      rw [List.mem_singleton.1 hy, hn]
      simpa using Ne.symm hjn
  · rw [hstay (hall n), hvstore, hustore]
  · rw [(drainTest_frame v n).2.2.2.2.2.2.1, hvready, huready]
  · rw [hfetcher, hvfetch, hufetch]
  · rw [drainTest_store, hvstore, hustore]
    split <;> rfl
  · exact ((huonly.mono (by simp)).trans (hvonly.mono (by simp))).trans ((onlyIn_drainTest v n).mono (by simp))

/-- One record of a ring being deleted (R59). -/
theorem abortRecord_aborted {k : RingId} {d : CtxId} (hk : ∀ o, s.ctx d = some o → o.ring = k) (hd : d ≠ 0)
    (hclose : ∀ n, holdsCloseLine n s = false) : RecordsAborted s k [d] (abortRecord s d) := by
  cases ho : s.ctx d with
  | none =>
    have : abortRecord s d = s := by simp [abortRecord, ho]
    rw [this]
    exact recordsAborted_kept fun e he => by
      cases List.mem_singleton.1 he
      simp [aborts, State.inPhase, ho]
  | some o =>
    by_cases hw : o.phase = .waiting
    · have : abortRecord s d = finish d .aborted 0 0 s := by simp [abortRecord, ho, hw]
      rw [this]
      exact recordsAborted_finish ho (hk o ho) (by simp [aborts, inPhase_of s ho, hw]) (by simp [parkedOf, ho, hw])
    · by_cases hp : o.phase = .parked
      · have ha : aborts s d = true := by simp [aborts, inPhase_of s ho, hp]
        cases hl : parkedLine o with
        | none =>
          have : abortRecord s d = finish d .aborted 0 0 s := by simp [abortRecord, ho, hp, hl]
          rw [this]
          exact recordsAborted_finish ho (hk o ho) ha (by simp [parkedOf, ho, hp, hl])
        | some n =>
          have : abortRecord s d = drainTest n (finish d .aborted 0 0 (unpark n d s)) := by
            simp [abortRecord, ho, hp, hl]
          rw [this]
          exact recordsAborted_unpark ho (hk o ho) hd (by simp [parkedOf, ho, hp, hl]) (hclose n)
      · have : abortRecord s d = s := by
          unfold abortRecord
          rw [ho]
          cases hph : o.phase <;> simp_all
        rw [this]
        exact recordsAborted_kept fun e he => by
          cases List.mem_singleton.1 he
          simp [aborts, inPhase_of s ho, hw, hp]

/-- Records ended one after the other (R59). -/
theorem RecordsAborted.cons {k : RingId} {d : CtxId} {ds : List CtxId} {u t : State} (h : RecordsAborted s k [d] u)
    (h' : RecordsAborted u k ds t) (hd : d ∉ ds) : RecordsAborted s k (d :: ds) t := by
  have hctx : ∀ e ∈ ds, u.ctx e = s.ctx e := fun e he => h.ctx e fun hs => hd (List.mem_singleton.1 hs.1 ▸ he)
  have hab : ∀ e ∈ ds, aborts u e = aborts s e := fun e he => aborts_congr (hctx e he)
  have hpk : ∀ e ∈ ds, parkedOf u e = parkedOf s e := fun e he => parkedOf_congr (hctx e he)
  have hresp : (u.ring k).resp = (s.ring k).resp := h.flows.resp k
  have hactive : (u.respRing (s.ring k).resp).state = (s.respRing (s.ring k).resp).state := h.flows.active _
  refine ⟨fun e he => ?_, fun e he ha => ?_, fun j hj => (h'.rings j hj).trans (h.rings j hj), fun hnd => ?_, ?_, ?_,
    fun n hn => ?_, fun hall => ?_, h.flows.trans h'.flows, ⟨?_, ?_, ?_⟩, h.only.trans h'.only⟩
  · refine (h'.ctx e fun hs => he ?_).trans (h.ctx e fun hs => he ?_)
    · exact ⟨List.mem_cons_of_mem d hs.1, hab e hs.1 ▸ hs.2⟩
    · exact ⟨List.mem_singleton.1 hs.1 ▸ List.mem_cons_self, hs.2⟩
  · rcases List.mem_cons.1 he with rfl | he
    · exact (h.ends e (by simp) ha).after h'.flows (h'.ctx e fun hs => hd hs.1)
    · exact (h'.ends e he ((hab e he).trans ha)).before h.flows (.of_eq (hctx e he))
  · have hu := h.ring hnd
    have hw : (u.ring k).window.Nodup := by
      rw [hu]
      dsimp only
      split
      · exact hnd
      · exact hnd.filter _
    rw [h'.ring hw, hresp, hactive, hu]
    by_cases ha : (s.respRing (s.ring k).resp).state = .active
    · simp only [ha, if_true]
    · simp only [ha, if_false, List.filter_filter]
      congr 1
      refine List.filter_congr fun e _ => ?_
      rw [Bool.eq_iff_iff]
      by_cases hed : e ∈ ds
      · have : e ≠ d := fun h => hd (h ▸ hed)
        simp [hed, hab e hed, this]
      · simp [hed]
  · have hfilter : ds.filter (aborts u) = ds.filter (aborts s) := List.filter_congr fun e he => hab e he
    rw [h'.posts, h.posts, hresp, hactive, hfilter, List.append_assoc]
    by_cases ha : (s.respRing (s.ring k).resp).state = .active
    · by_cases hda : aborts s d = true <;> simp [ha, hda]
    · simp [ha]
  · rw [h'.timer, h.timer, List.filter_filter]
    refine List.filter_congr fun z _ => ?_
    by_cases hz : z.1 ∈ ds
    · have : z.1 ≠ d := fun h => hd (h ▸ hz)
      simp [hz, hpk _ hz, this]
    · simp [hz]
  · have hu := h.line n hn
    rw [h'.line n (by rw [hu]; exact hn), hu]
    have hpark : ((s.line n).park.filter fun y => decide (y.ctx ∈ [d] → parkedOf s y.ctx ≠ some n)).filter
        (fun y => decide (y.ctx ∈ ds → parkedOf u y.ctx ≠ some n)) =
        (s.line n).park.filter fun y => decide (y.ctx ∈ d :: ds → parkedOf s y.ctx ≠ some n) := by
      rw [List.filter_filter]
      refine List.filter_congr fun y _ => ?_
      by_cases hy : y.ctx ∈ ds
      · have : y.ctx ≠ d := fun h => hd (h ▸ hy)
        simp [hy, hpk _ hy, this]
      · simp [hy]
    simp only [hpark]
  · exact (h'.store fun n => by rw [h.line n (hall n)]; exact hall n).trans (h.store hall)
  · exact h'.frame.1.trans h.frame.1
  · exact h'.frame.2.1.trans h.frame.2.1
  · exact h'.frame.2.2.trans h.frame.2.2

theorem abortRecords_aborted {k : RingId} {ds : List CtxId} (hnd : ds.Nodup) (h0 : 0 ∉ ds)
    (hk : ∀ d ∈ ds, ∀ o, s.ctx d = some o → o.ring = k) (hclose : ∀ n, holdsCloseLine n s = false) :
    RecordsAborted s k ds (ds.foldl abortRecord s) := by
  induction ds generalizing s with
  | nil => exact recordsAborted_kept fun d hd => by simp at hd
  | cons d ds ih =>
    obtain ⟨hd, hds⟩ := List.nodup_cons.1 hnd
    have hd0 : d ≠ 0 := fun h => h0 (by simp [h])
    have h := abortRecord_aborted (hk d (by simp)) hd0 hclose
    refine h.cons (ih hds (fun h => h0 (by simp [h])) (fun e he o ho => ?_) fun n => ?_) hd
    · refine hk e (by simp [he]) o ?_
      rwa [h.ctx e fun hs => hd (List.mem_singleton.1 hs.1 ▸ he)] at ho
    · rw [holdsCloseLine_congr s (h.ctx 0 fun hs => hd0 (List.mem_singleton.1 hs.1).symm)]
      exact hclose n

/-! ### The drain of a ring -/

theorem ringDrained_iff (k : RingId) (s : State) : ringDrained k s = true ↔ (s.ring k).state = .draining ∧
    (s.ring k).window = [] ∧ ∀ f, s.fetcher.fetch = some f → f.ring ≠ k := by
  simp only [ringDrained, Bool.and_eq_true, decide_eq_true_eq, beq_iff_eq, heldContexts]
  cases h : s.fetcher.fetch with
  | none => simp
  | some f => by_cases hf : f.ring = k <;> simp [hf]

theorem holdsDeleteRing_iff (k : RingId) (s : State) : holdsDeleteRing k s = true ↔
    ∃ o, s.ctx 0 = some o ∧ o.body = some (.deleteRing k) ∧ o.phase = .acting := by
  unfold holdsDeleteRing
  cases s.ctx 0 <;> simp

/-- An operation that has ended stays so while its context and its item stay. -/
theorem EndsWith.kept {u t : State} {c : CtxId} {r : Settled} (h : EndsWith s c r u) (hc : t.ctx c = u.ctx c)
    (hp : u.resp.posts <+: t.resp.posts) : EndsWith s c r t := by
  intro o ho
  have := h o ho
  rw [hc]
  split
  · next ha =>
    rw [if_pos ha] at this
    exact this.imp_right fun hm => hp.subset hm
  · next ha => rwa [if_neg ha] at this

/-- What the end of a ring's drain does (R60). -/
theorem ringDrainTest_spec {k : RingId} (h : ringDrained k s = true) (hk : k ≠ 0)
    (h0 : ∀ o, s.ctx 0 = some o → o.ring = 0) : OnlyIn [.ringFetcher, .scheduler, .responseUnit] s (ringDrainTest k s) ∧
      (∀ j, j ≠ k → j ≠ 0 → (ringDrainTest k s).ring j = s.ring j) ∧
      (ringDrainTest k s).ring k = { CmdRing.disabledRing with notice := (s.ring k).notice } ∧
      (∀ d, d ≠ 0 → (ringDrainTest k s).ctx d = s.ctx d) ∧ (ringDrainTest k s).sched.ready = s.sched.ready ∧
      s.resp.posts <+: (ringDrainTest k s).resp.posts ∧
      ∀ o, s.ctx 0 = some o → o.body = some (.deleteRing k) → o.phase = .acting →
        EndsWith s 0 ⟨.ok, 0, (s.ring k).take⟩ (ringDrainTest k s) := by
  let u := s.setRing k { CmdRing.disabledRing with notice := (s.ring k).notice }
  have hu : ∀ j, j ≠ k → u.ring j = s.ring j := fun j hj => State.setRing_other _ _ _ _ hj
  have ht : ringDrainTest k s = if holdsDeleteRing k s = true then finish 0 .ok 0 (s.ring k).take u else u := by
    simp only [ringDrainTest, h, if_true, u]
  rw [ht]
  by_cases hd : holdsDeleteRing k s = true
  · obtain ⟨o, ho, -, -⟩ := (holdsDeleteRing_iff k s).1 hd
    have hring : ∀ j, j ≠ 0 → (finish 0 .ok 0 (s.ring k).take u).ring j = u.ring j := fun j hj =>
      finish_ring_other u (show u.ctx 0 = some o from ho) _ _ _ (by rw [h0 o ho]; exact hj)
    rw [if_pos hd]
    refine ⟨((onlyIn_setRing s k _).mono (by simp)).trans ((onlyIn_finish u _ _ _ _).mono (by simp)),
      fun j hj hj0 => (hring j hj0).trans (hu j hj), (hring k hk).trans (State.setRing_same _ _ _),
      fun d hd0 => finish_other u _ _ _ hd0, by simp [u], (flows_finish u _ _ _ _).posts, fun q hq _ _ => ?_⟩
    refine endsWith_finish_at (s := s) (u := u) rfl (fun x hx => ?_) _ _ _
    rw [h0 x hx, hu 0 (Ne.symm hk)]
    exact ⟨rfl, rfl⟩
  · rw [if_neg hd]
    exact ⟨(onlyIn_setRing s k _).mono (by simp), fun j hj _ => hu j hj, State.setRing_same _ _ _, fun _ _ => rfl, rfl,
      List.prefix_rfl, fun q hq hb hp => absurd ((holdsDeleteRing_iff k s).2 ⟨q, hq, hb, hp⟩) hd⟩

/-- A ring that begins to drain, its DELETE_RING ACTING (R59). -/
def drainBegun (k : RingId) (s : State) : State := (s.setRing k { s.ring k with state := .draining }).setPhase 0 .acting

theorem deleteRing_eq {k : RingId} (h : ¬((s.ring k).state = .disabled ∨ (s.ring k).state = .draining)) :
    deleteRing 0 k s = ringDrainTest k ((s.ring k).window.foldl abortRecord (drainBegun k s)) := if_neg h

theorem drainBegun_ctx (k : RingId) (d : CtxId) : (drainBegun k s).ctx d =
    if d = 0 then (s.ctx 0).map fun o => { o with phase := .acting } else s.ctx d := by
  rw [drainBegun, setPhase_ctx]
  rfl

theorem drainBegun_ring (k j : RingId) : (drainBegun k s).ring j =
    if j = k then { s.ring k with state := .draining } else s.ring j := by
  rw [drainBegun, ring_congr (s := s.setRing k { s.ring k with state := .draining }) (by simp)]
  by_cases h : j = k
  · subst h; simp
  · simp [h]

theorem drainBegun_flows (k : RingId) : Flows s (drainBegun k s) := by
  refine ⟨fun j => ?_, fun r => congrArg RespRing.state (respRing_congr (s := s) (by simp [drainBegun]) r), by simp [drainBegun]⟩
  rw [drainBegun_ring]
  split
  · next h => rw [h]
  · rfl

theorem drainBegun_only (k : RingId) : OnlyIn [.ringFetcher, .scheduler] s (drainBegun k s) :=
  ((onlyIn_setRing s k _).mono (by simp)).trans ((onlyIn_setPhase _ 0 _).mono (by simp))

end Sys2Proof.Machine

namespace Sys2Proof

open Machine

/-- Settles O52: the records ended by `abortRecords_aborted`, then the ring's own drain test. -/
theorem deleteRing : Obligations.DeleteRing := by
  constructor
  · intro s o k aborted kept hstart ho horing hk h0 hnd hrings haborted hkept
    obtain ⟨q, -, hq, hqb, -⟩ := (nextStart_eq_some_iff s 0 0 (.deleteRing k)).1 hstart
    cases ho.symm.trans hq
    have hexec : exec .deleteRing s = .next (settleIdle (Machine.deleteRing 0 k s)) := by
      simp only [exec, execDeleteRing, hstart]
      rfl
    refine ⟨_, hexec, ?_⟩
    by_cases hbusy : (s.ring k).state = .disabled ∨ (s.ring k).state = .draining
    · have ht : Machine.deleteRing 0 k s = finish 0 .ringBusy 0 0 s := if_pos hbusy
      have hends := onlyEnds_finish s 0 .ringBusy 0 0
      have hring : ∀ j, j ≠ 0 → (settleIdle (finish 0 .ringBusy 0 0 s)).ring j = s.ring j := fun j hj => by
        rw [settleIdle_ring, finish_ring_other s ho _ _ _ (by rw [horing]; exact hj)]
      rw [ht, if_pos hbusy]
      exact ⟨hends.only.mono (by simp), fun j _ hj0 => hring j hj0, by simp, hends.ends, hring k hk, by simp, by simp,
        by simp, hends.others⟩
    · rw [if_neg hbusy, deleteRing_eq hbusy]
      have hs1ctx : ∀ d, d ≠ 0 → (drainBegun k s).ctx d = s.ctx d := fun d hd => by rw [drainBegun_ctx, if_neg hd]
      have hs10 : (drainBegun k s).ctx 0 = some { o with phase := .acting } := by
        rw [drainBegun_ctx, if_pos rfl, ho]
        rfl
      have hs1k : (drainBegun k s).ring k = { s.ring k with state := .draining } := by rw [drainBegun_ring, if_pos rfl]
      have hs1j : ∀ j, j ≠ k → (drainBegun k s).ring j = s.ring j := fun j hj => by rw [drainBegun_ring, if_neg hj]
      have hs1resp : ∀ r, (drainBegun k s).respRing r = s.respRing r := respRing_congr (by simp [drainBegun])
      have hs1flows := drainBegun_flows (s := s) k
      have hs1only := drainBegun_only (s := s) k
      have hs1frame : (drainBegun k s).sched.ready = s.sched.ready ∧ (drainBegun k s).fetcher.fetch = s.fetcher.fetch ∧
          (drainBegun k s).store = s.store ∧ (drainBegun k s).lines = s.lines ∧
          (drainBegun k s).parkTimer = s.parkTimer ∧ (drainBegun k s).resp.posts = s.resp.posts := by
        simp [drainBegun]
      generalize drainBegun k s = s1 at *
      obtain ⟨hs1ready, hs1fetch, hs1store, hs1lines, hs1timer, hs1posts⟩ := hs1frame
      have hne : ∀ d ∈ (s.ring k).window, d ≠ 0 := fun d hd h => h0 (h ▸ hd)
      have hu : RecordsAborted s1 k (s.ring k).window ((s.ring k).window.foldl abortRecord s1) := by
        refine abortRecords_aborted hnd h0 (fun d hd x hx => hrings d hd x (by rwa [hs1ctx d (hne d hd)] at hx)) fun n => ?_
        refine Bool.eq_false_iff.2 fun h => ?_
        obtain ⟨x, hx, hxb, -⟩ := (holdsCloseLine_iff s1 n).1 h
        cases hs10.symm.trans hx
        cases hqb.symm.trans hxb
      generalize (s.ring k).window.foldl abortRecord s1 = u at *
      have hab : ∀ d ∈ (s.ring k).window, aborts s1 d = aborts s d := fun d hd => aborts_congr (hs1ctx d (hne d hd))
      have hpk : ∀ d ∈ (s.ring k).window, parkedOf s1 d = parkedOf s d := fun d hd => parkedOf_congr (hs1ctx d (hne d hd))
      have hmem : ∀ d, d ∈ aborted ↔ d ∈ (s.ring k).window ∧ aborts s d = true := fun d => by
        rw [haborted]
        exact List.mem_filter
      have hmem1 : ∀ d, (d ∈ (s.ring k).window ∧ aborts s1 d = true) ↔ d ∈ aborted := fun d => by
        rw [hmem]
        exact and_congr_right fun hd => by rw [hab d hd]
      have hu0 : u.ctx 0 = some { o with phase := .acting } := (hu.ctx 0 fun h => h0 h.1).trans hs10
      have huk : u.ring k = { s.ring k with state := .draining, window := kept } := by
        rw [hu.ring (by rw [hs1k]; exact hnd), hs1k, hkept]
        simp only [hs1resp, hmem1]
      have hufetch : u.fetcher.fetch = s.fetcher.fetch := hu.frame.2.1.trans hs1fetch
      have hdrained : ringDrained k u = true ↔ kept = [] ∧ ∀ f, s.fetcher.fetch = some f → f.ring ≠ k := by
        rw [ringDrained_iff, huk, hufetch]
        simp
      have hcontrol : ∀ x, u.ctx 0 = some x → x.ring = 0 := fun x hx => by
        cases hu0.symm.trans hx
        exact horing
      obtain ⟨v, hv⟩ : ∃ v, v = ringDrainTest k u := ⟨_, rfl⟩
      have hvu : OnlyIn [.ringFetcher, .scheduler, .responseUnit] u v ∧ (∀ j, j ≠ k → j ≠ 0 → v.ring j = u.ring j) ∧
          (∀ d, d ≠ 0 → v.ctx d = u.ctx d) ∧ v.sched.ready = u.sched.ready ∧
          u.resp.posts <+: v.resp.posts := by
        by_cases hd : ringDrained k u = true
        · obtain ⟨h1, h2, -, h4, h5, h6, -⟩ := ringDrainTest_spec hd hk hcontrol
          exact hv ▸ ⟨h1, h2, h4, h5, h6⟩
        · have : v = u := hv.trans (if_neg hd)
          rw [this]
          exact ⟨onlyIn_refl u _, fun _ _ _ => rfl, fun _ _ => rfl, rfl, List.prefix_rfl⟩
      obtain ⟨hvonly, hvring, hvctx, hvready, hvposts⟩ := hvu
      have hvstore : v.store = u.store := hvonly.2.2 .storeController (by simp)
      have hvlines : v.lines = u.lines := hvonly.2.2 .lineTable (by simp)
      have hvtimer : v.parkTimer = u.parkTimer := hvonly.2.2 .parkTimer (by simp)
      have hs1line : ∀ n, s1.line n = s.line n := line_congr hs1lines
      have hline : ∀ n, (s.line n).state ≠ .closing → (settleIdle v).line n = { s.line n with
          park := (s.line n).park.filter fun y => decide (y.ctx ∈ (s.ring k).window → parkedOf s y.ctx ≠ some n) } := by
        intro n hn
        rw [settleIdle_line, line_congr hvlines, hu.line n (by rwa [hs1line]), hs1line]
        rw [show ((s.line n).park.filter fun y => decide (y.ctx ∈ (s.ring k).window → parkedOf s1 y.ctx ≠ some n)) =
          (s.line n).park.filter fun y => decide (y.ctx ∈ (s.ring k).window → parkedOf s y.ctx ≠ some n) from
          List.filter_congr fun y _ => decide_eq_decide.2 (forall_congr' fun hy => by rw [hpk _ hy])]
      have hleaves : ∀ d, (d ∈ aborted ∧ parkedOf s d ≠ none) ↔ (d ∈ (s.ring k).window ∧ parkedOf s d ≠ none) := by
        intro d
        rw [hmem, and_assoc]
        refine and_congr_right fun _ => and_iff_right_of_imp fun h => ?_
        by_contra ha
        exact h (parkedOf_eq_none_of_not_aborts (Bool.eq_false_iff.2 ha))
      rw [← hv]
      refine ⟨?_, fun j hj hj0 => ?_, ?_, fun d hd => ?_, fun d hd hda => ?_, ?_, fun z => ?_, fun n hn => ⟨?_, ?_, fun y => ?_⟩,
        fun hall => ?_, ?_⟩
      · exact onlyIn_settleIdle s (((hs1only.mono (by simp)).trans hu.only).trans (hvonly.mono (by simp)))
      · rw [settleIdle_ring, hvring j hj hj0, hu.rings j hj, hs1j j hj]
      · rw [settleIdle_store, hvstore, hu.frame.2.2, hs1store]
      · obtain ⟨hdw, hda⟩ := (hmem1 d).2 hd
        have hd0 := hne d hdw
        have hends := (hu.ends d hdw hda).before hs1flows (.of_eq (hs1ctx d hd0))
        exact endsWith_settleIdle s (hends.kept (hvctx d hd0) hvposts)
      · rw [settleIdle_ctx, hvctx d hd, hu.ctx d (mt (hmem1 d).1 hda), hs1ctx d hd]
      · rw [settleIdle_ready, hvready, hu.frame.1, hs1ready]
      · rw [show (settleIdle v).parkTimer = v.parkTimer by simp, hvtimer, hu.timer, hs1timer, List.mem_filter,
          decide_eq_true_iff, ← parkedOf_isSome_iff, hleaves, not_and]
        refine and_congr_right fun _ => forall_congr' fun hz => ?_
        rw [hpk _ hz, not_not]
      · rw [hline n hn]
      · rw [hline n hn]
        exact List.filter_sublist
      · rw [hline n hn, List.mem_filter, decide_eq_true_iff, ← parkedOf_eq_some_iff, not_and]
        refine and_congr_right fun _ => ⟨fun h ha => h ((hmem _).1 ha).1, fun h hw he => ?_⟩
        exact h ((hleaves _).2 ⟨hw, by rw [he]; simp⟩).1 he
      · rw [settleIdle_store, hvstore, hu.store fun n => by rw [hs1line]; exact hall n, hs1store]
      · by_cases hd : kept = [] ∧ ∀ f, s.fetcher.fetch = some f → f.ring ≠ k
        · obtain ⟨-, -, h3, -, -, -, h6⟩ := ringDrainTest_spec (hdrained.2 hd) hk hcontrol
          rw [if_pos hd, settleIdle_ring, hv, h3, huk]
          refine ⟨rfl, endsWith_settleIdle s ?_⟩
          have := (h6 _ hu0 hqb rfl).before (hs1flows.trans hu.flows) fun x hx =>
            ⟨_, hu0, by cases ho.symm.trans hx; exact ⟨rfl, rfl⟩⟩
          rwa [huk] at this
        · have hvu : v = u := hv.trans (if_neg (mt hdrained.1 hd))
          rw [if_neg hd, settleIdle_ring, settleIdle_ctx, hvu]
          refine ⟨huk, ⟨_, hu0, rfl, rfl⟩, fun hactive _ => ?_⟩
          rw [show (settleIdle u).resp.posts = u.resp.posts by simp, hu.posts, hs1posts, hs1k, haborted]
          simp only [hs1resp, hactive, if_true]
          rw [List.filter_congr hab]
          rfl
  · intro s k hdraining hheld hk h0
    have hdrained : ringDrained k s = true := by simp [ringDrained, hdraining, hheld]
    obtain ⟨h1, h2, h3, -, -, -, h6⟩ := ringDrainTest_spec hdrained hk h0
    refine ⟨settleIdle (ringDrainTest k s), ?_, onlyIn_settleIdle s h1, fun j hj hj0 => ?_, ?_, fun o ho hb hp => ?_⟩
    · simp only [exec, execRingDrainComplete, hdrained, if_true]
      rfl
    · rw [settleIdle_ring, h2 j hj hj0]
    · rw [settleIdle_ring, h3]
    · exact endsWith_settleIdle s (h6 o ho hb hp)

end Sys2Proof
